-- ==== Sys2Proof/Word.lean ====
section
/-! DEFINITION. The plain words of the part: bytes, tags, 32-bit counts, and the index types of the things
the manual numbers (streams, slots, item-table entries, pass-through entries). -/

namespace Sys2Proof

/-- A byte on a link or in face memory. -/
abbrev Byte := BitVec 8

/-- The 16-bit tag of a directive, echoed by the notices that concern it (R19). -/
abbrev Tag := BitVec 16

/-- A counter: every counter is 32 bits wide and stops at its maximum (00_scope.md, section 6). -/
abbrev Count := BitVec 32

/-- A stream, 0 to 15. -/
abbrev Stream := Fin 16

/-- A slot of face memory, 0 to 47 (R45). -/
abbrev Slot := Fin 48

/-- An entry of the item table, 0 to 31 (section 2.3). -/
abbrev ItemIx := Fin 32

/-- An entry of the pass-through region, 0 to 63 (R45). -/
abbrev PassIx := Fin 64

end Sys2Proof
end

