-- ==== Sys2Proof/Syntax.lean ====
section
/-! DEFINITION. The commands of the part: one constructor of `Instr` for each row of spec/opcode_table.json, and the
types of their operands. A command that is the arrival of a record carries that record; a command that reads face
memory or an on-chip table carries the outcome of its error checks, which the memory devices decide (log entries 3, 4). -/

namespace Sys2Proof

/-- What an arriving record carries besides its kind and target (R19): the tag, the payload, and the four bytes of the
payload check as received. A record of empty payload has no payload check and the field is then not sent. -/
structure Carried where
  tag     : Tag
  payload : List Byte
  check   : BitVec 32
deriving DecidableEq, Repr

/-- A DIRECTIVE of a known code as it arrives: the station addressed, the tag, the payload bytes after the code byte,
and the payload check as received (R21). -/
structure Directive where
  target : Fin 32
  tag    : Tag
  params : List Byte
  check  : BitVec 32
deriving DecidableEq, Repr

/-- The three results of reading a word of face memory (R46). -/
inductive ReadResult
  | clean
  | corrected
  | uncorrectable
deriving DecidableEq, Repr

/-- Which parity-checked read of the step finds a parity error (R204): the Stream Tracker's read of a stream context, at a raw
record, a stall expiry or a SET STREAM ROLE; its read of an item record; the read of the table entry the step uses (profile,
tone, code or rule entry); the Conversion Engine's read of an item record; the Release Engine's read of one, at a decision, a
choice, a record it composes or the completion of a release. -/
inductive ParityRead
  | context
  | record
  | entry
  | converter
  | release
deriving DecidableEq, Repr

/-- A SET STREAM ROLE as it arrives, with whether the Stream Tracker's read of the stream's context finds a parity error
(R181, R204). -/
structure RoleDirective extends Directive where
  parity : Option ParityRead
deriving DecidableEq, Repr

/-- The three framing cases of R1 other than a second start-of-record character. -/
inductive FramingCause
  | invalidCharacter
  | idleCharacter
  | tooLong
deriving DecidableEq, Repr

/-- The produced kinds (section 1.2). -/
inductive ProducedKind
  | codedHead
  | codedSegment
  | itemResult
deriving DecidableEq, Repr

/-- The commands of the part, in the order of spec/opcode_table.json. -/
inductive Instr
  | pinResetAssert
  | pinResetRelease
  | startOfRecord
  | framingFault (cause : FramingCause)
  | headerFault (bytes : List Byte)
  | itemOpen (stream : Stream) (rec : Carried) (parity : Option ParityRead)
  | faceOpen (stream : Stream) (rec : Carried) (parity : Option ParityRead)
  | strip (stream : Stream) (rec : Carried) (parity : Option ParityRead)
  | itemClose (stream : Stream) (rec : Carried) (parity : Option ParityRead)
  | itemCancel (stream : Stream) (rec : Carried) (parity : Option ParityRead)
  | stallExpiry (stream : Stream) (parity : Option ParityRead)
  | fill (target : Byte) (rec : Carried)
  | producedRecord (kind : ProducedKind) (stream : Stream) (rec : Carried)
  | notice (station : Fin 32) (rec : Carried)
  | unknownKind (kind target : Byte) (rec : Carried)
  | directiveOtherStation (station : Fin 32) (rec : Carried)
  | directiveUnknownCode (station : Fin 32) (rec : Carried)
  | statusQuery (dir : Directive)
  | writeProfile (dir : Directive)
  | readProfile (dir : Directive) (parity : Option ParityRead)
  | loadCodeTable (dir : Directive)
  | loadToneCurve (dir : Directive)
  | loadRule (dir : Directive)
  | setStreamRole (dir : RoleDirective)
  | quiesce (dir : Directive)
  | resume (dir : Directive)
  | restart (dir : Directive)
  | setPacing (dir : Directive)
  | fence (dir : Directive)
  | markLinkError (dir : Directive)
  | writeStartUp (dir : Directive)
  | readStartUp (dir : Directive)
  | activityTimerExpiry
  | pacingEighth
  | scuInputRow (slot : Slot) (parity : Option ParityRead)
  | lastRowWriteComplete (slot : Slot) (parity : Option ParityRead)
  | cnvGreyRow (reads : List ReadResult) (parity : Option ParityRead)
  | attemptFit (parity : Option ParityRead)
  | evaluationEnd (parity : Option ParityRead)
  | codedSegmentComposed (reads : List ReadResult) (parity : Option ParityRead)
  | egressRecordEnd (parity : Option ParityRead)
  | egressHoldAssert
  | egressHoldRelease
  | scrubComplete
  | verifyComplete
  | eraseComplete
  | storeWriteComplete
  | verifyRead (word : Nat) (read : ReadResult) (nonZero : Bool)
  | passThroughRead (word : Nat) (read : ReadResult)
deriving DecidableEq, Repr

end Sys2Proof
end

