-- ==== Sys2Proof/Decode.lean ====
section
/-! DEFINITION. The commands as words of bits. No row of spec/opcode_table.json gives any bits: a command is the arrival of a
record, or an event at a pin, a memory device or a timer, and none of them is a word of fixed bits. -/

namespace Sys2Proof

/-- The command that a word of `nbits` bits spells, numbered as spec/opcode_table.json numbers bits: none, since no row of
the table gives bits. -/
def decodeTableWord (nbits w : Nat) : Option Instr :=
  match nbits, w with
  | _, _ => none

end Sys2Proof
end

