-- ==== Sys2Proof/Config.lean ====
section
/-! DEFINITION. What the manual fixes for every part (sizes, addresses, limits) and the model's one free value. -/

namespace Sys2Proof.Config

/-- Free value (log entry 6): what cells 0 to 4 of the Start-up Store hold after pin reset has cut a store
write short. R203 fixes cell 5 and says nothing of the others. It has no body, so nothing can be proved of it. -/
opaque interruptedCell : Nat → Byte

/-- Largest payload of a record, in bytes (section 1.1, R2). -/
def maxPayload : Nat := 16384

/-- Bytes of one slot: grey area and coded area (R45). -/
def slotBytes : Nat := 3407872

/-- Bytes of a slot's grey area (R45). -/
def greyBytes : Nat := 3276800

/-- Bytes of a slot's coded area (R45, R119). -/
def codedArea : Nat := 131072

/-- Bytes of one row of a grey area (R45). -/
def rowStride : Nat := 2560

/-- First byte of the pass-through region (R45). -/
def passBase : Nat := 163577856

/-- Bytes of one pass-through entry (R45). -/
def passEntryBytes : Nat := 16400

/-- Words of 8 bytes that the start-up verify reads (R199). -/
def verifyWords : Nat := 20447232

/-- Records the pass-through FIFO holds (R17). -/
def passCapacity : Nat := 64

/-- Notices the notice queue holds (R171). -/
def noticeCapacity : Nat := 16

/-- Tags the owed-grant list holds (R183). -/
def owedCapacity : Nat := 4

/-- Fence markers a release queue holds (R148). -/
def fenceCapacity : Nat := 2

/-- Uncorrectable reads since pin reset at which MEMORY_LIMIT is reported (R47). -/
def memoryLimit : Nat := 16

/-- Data bytes of a full CODED SEGMENT (R159). -/
def segmentBytes : Nat := 16376

/-- The station a part without an address answers to (R5, R200). -/
def unassignedStation : Nat := 30

/-- The target that addresses every station (R5). -/
def broadcast : Nat := 31

/-- Widest row kept of a face (R33). -/
def maxKeptWidth : Nat := 2560

/-- Most rows kept of a face (R33). -/
def maxKeptHeight : Nat := 1280

end Sys2Proof.Config
end

