-- ==== Sys2Proof/Machine/Bytes.lean ====
section
/-! DEFINITION. Byte order, bit order, saturating counters, the two record checks and the fill sequence
(00_scope.md section 6; R2, R3, R8, R19). -/

namespace Sys2Proof.Machine

/-- One more, stopping at the maximum (00_scope.md section 6, Counters). -/
def satInc (c : Count) : Count := if c = BitVec.allOnes 32 then c else c + 1

/-- The number a byte string spells, most significant byte first (00_scope.md section 6). -/
def beNat (bs : List Byte) : Nat := bs.foldl (fun a b => 256 * a + b.toNat) 0

/-- `v` in `n` bytes, most significant byte first. -/
def toBE : Nat → Nat → List Byte
  | 0, _ => []
  | n + 1, v => BitVec.ofNat 8 (v / 256 ^ n) :: toBE n v

/-- One byte holding `v`. -/
def byteOf (v : Nat) : Byte := BitVec.ofNat 8 v

/-- A byte holding 1 or 0. -/
def byteOfBool (b : Bool) : Byte := if b then 1 else 0

/-- The bits of a byte, most significant first. -/
def byteBits (b : Byte) : List Bool :=
  [b.getLsbD 7, b.getLsbD 6, b.getLsbD 5, b.getLsbD 4, b.getLsbD 3, b.getLsbD 2, b.getLsbD 1, b.getLsbD 0]

/-- The bits of a byte string in the order they are sent. -/
def bitsOf (bs : List Byte) : List Bool := bs.flatMap byteBits

/-- The number that a list of bits spells, most significant first. -/
def bitsNat (bits : List Bool) : Nat := bits.foldl (fun a b => 2 * a + b.toNat) 0

/-- Bytes from bits, most significant first; fewer than 8 bits left over make no byte. -/
def packBytes : List Bool → List Byte
  | a :: b :: c :: d :: e :: f :: g :: h :: rest => byteOf (bitsNat [a, b, c, d, e, f, g, h]) :: packBytes rest
  | _ => []

/-- One bit of the header check: polynomial 0x1021 (R2). -/
def crc16Bit (c : BitVec 16) (b : Bool) : BitVec 16 :=
  if c.msb ^^ b then (c <<< 1) ^^^ 0x1021 else c <<< 1

/-- The header check: initial value 0xFFFF, most significant bit first, no final inversion (R2). -/
def crc16 (bs : List Byte) : BitVec 16 := (bitsOf bs).foldl crc16Bit 0xFFFF

/-- One bit of the payload check: polynomial 0x04C11DB7 (R3). -/
def crc32Bit (c : BitVec 32) (b : Bool) : BitVec 32 :=
  if c.msb ^^ b then (c <<< 1) ^^^ 0x04C11DB7 else c <<< 1

/-- The payload check: initial value all ones, final value complemented (R3). -/
def crc32 (bs : List Byte) : BitVec 32 := ~~~ ((bitsOf bs).foldl crc32Bit 0xFFFFFFFF)

/-- The next bit of the fill sequence: the exclusive-or of the bits 14 and 15 places before it. The state keeps
the last 15 bits, the latest in bit 0 (R8). -/
def fillNext (st : BitVec 15) : Bool := st.getLsbD 13 ^^ st.getLsbD 14

/-- The last 15 bits after one more bit of the sequence (R8). -/
def fillShift (st : BitVec 15) (b : Bool) : BitVec 15 := (st <<< 1) ||| (if b then 1 else 0)

/-- The next `n` bits of the fill sequence and the state after them (R8). -/
def fillRun : Nat → BitVec 15 → List Bool × BitVec 15
  | 0, st => ([], st)
  | n + 1, st =>
    let b := fillNext st
    let r := fillRun n (fillShift st b)
    (b :: r.1, r.2)

/-- A record with its kind and target (R19). -/
structure Record where
  kind   : Byte
  target : Byte
  body   : Carried
deriving DecidableEq, Repr

/-- Header bytes 0 to 5: kind, target, length, tag (R19). -/
def headerBytes (kind target : Byte) (tag : Tag) (len : Nat) : List Byte :=
  [kind, target] ++ toBE 2 len ++ toBE 2 tag.toNat

/-- The bytes between a record's delimiters: header with its check, payload, and the payload check when the
payload is not empty (section 1.1, R2, R19). -/
def recordBytes (r : Record) : List Byte :=
  let h := headerBytes r.kind r.target r.body.tag r.body.payload.length
  h ++ toBE 2 (crc16 h).toNat ++ r.body.payload ++
    (if r.body.payload = [] then [] else toBE 4 r.body.check.toNat)

/-- A record this part makes: its payload check is computed over the payload as sent (R14). -/
def madeRecord (kind target : Byte) (tag : Tag) (payload : List Byte) : Record :=
  { kind := kind, target := target, body := { tag := tag, payload := payload, check := crc32 payload } }

/-- The payload check of R3 passes; a record of empty payload carries none. -/
def checkOk (c : Carried) : Bool := c.payload = [] || crc32 c.payload = c.check

/-- A raw or a produced kind code (section 1.2). -/
def isStreamKind (k : Byte) : Bool :=
  k = 0x10 || k = 0x11 || k = 0x12 || k = 0x13 || k = 0x14 || k = 0x20 || k = 0x21 || k = 0x22

/-- DIRECTIVE or NOTICE (section 1.2). -/
def isManagementKind (k : Byte) : Bool := k = 0x30 || k = 0x31

/-- A kind code of the table of section 1.2; any other is an unknown kind. -/
def isKnownKind (k : Byte) : Bool := k = 0x00 || isStreamKind k || isManagementKind k

/-- The conditions of R2 that a record with a sound header check can still meet: length above 16,384, or a target out
of range for its kind. -/
def headerFaulty (r : Record) : Bool :=
  decide (Config.maxPayload < r.body.payload.length) ||
    (isStreamKind r.kind && decide (15 < r.target.toNat)) ||
    (isManagementKind r.kind && decide (31 < r.target.toNat))

/-- Reads the bytes between two delimiters under R2: `none` is a header fault. -/
def parseRecord (bs : List Byte) : Option Record :=
  match bs with
  | k :: t :: l1 :: l0 :: g1 :: g0 :: c1 :: c0 :: rest =>
    let len := beNat [l1, l0]
    if (crc16 [k, t, l1, l0, g1, g0]).toNat ≠ beNat [c1, c0] then none
    else if Config.maxPayload < len then none
    else if rest.length ≠ (if len = 0 then 0 else len + 4) then none
    else
      let r : Record :=
        { kind := k, target := t,
          body := { tag := BitVec.ofNat 16 (beNat [g1, g0]), payload := rest.take len,
                    check := BitVec.ofNat 32 (beNat (rest.drop len)) } }
      if headerFaulty r then none else some r
  | _ => none

/-- The 32 payload bytes of the next FILL and the generator state after them; with the mark-error request set the
first bit is sent inverted and the state advances with the true bit (R8, R9). -/
def fillPayload (gen : BitVec 15) (mark : Bool) : List Byte × BitVec 15 :=
  let r := fillRun 256 gen
  let sent := match r.1 with
    | b :: bs => (b ^^ mark) :: bs
    | [] => []
  (packBytes sent, r.2)

/-- A FILL as sent: kind FILL, target 0, length 32, tag 0 (R8). -/
def fillRecord (payload : List Byte) : Record := madeRecord 0x00 0x00 0 payload

end Sys2Proof.Machine
end

