-- ==== Sys2Proof/Machine/Memory.lean ====
section
/-! DEFINITION. Face memory (R45, R46): the bytes of the 256 MiB the part addresses, and the damage its words carry
until they are next written. Both are lists in one canonical form: keys strictly rising, no cell of value 0, no
damage entry `clean`. An unlisted byte reads as 0 (log entry 7) and an unlisted word is undamaged. -/

namespace Sys2Proof.Machine

/-- Face memory. `cells` maps a byte address to its byte; `damage` maps a word number (byte address divided by 8) to
the error its next reads find (R46). -/
structure FaceMemory where
  cells  : List Host.Cell
  damage : List (Nat × ReadResult)
deriving DecidableEq, Repr

/-- Puts a value at a key of a list with rising keys. -/
def putKey {α : Type} (k : Nat) (v : α) : List (Nat × α) → List (Nat × α)
  | [] => [(k, v)]
  | c :: rest =>
    if k < c.1 then (k, v) :: c :: rest
    else if k = c.1 then (k, v) :: rest
    else c :: putKey k v rest

/-- The value at a key, if it is listed. -/
def getKey {α : Type} (k : Nat) : List (Nat × α) → Option α
  | [] => none
  | c :: rest => if c.1 = k then some c.2 else getKey k rest

/-- Keys strictly rising. -/
def risingKeys {α : Type} : List (Nat × α) → Bool
  | [] => true
  | [_] => true
  | c :: d :: rest => decide (c.1 < d.1) && risingKeys (d :: rest)

/-- The canonical form of face memory. -/
def FaceMemory.wf (m : FaceMemory) : Bool :=
  risingKeys m.cells && m.cells.all (fun c => c.2 != 0) &&
    risingKeys m.damage && m.damage.all (fun d => d.2 != .clean)

/-- One byte of face memory; an unlisted byte reads as 0. -/
def FaceMemory.read (m : FaceMemory) (a : Nat) : Byte := (getKey a m.cells).getD 0

/-- `n` bytes from address `a`. -/
def FaceMemory.readBytes (m : FaceMemory) (a n : Nat) : List Byte := (List.range n).map (fun k => m.read (a + k))

/-- The cells after one byte is written; writing 0 removes the entry. -/
def putByte (a : Nat) (v : Byte) (cs : List Host.Cell) : List Host.Cell :=
  if v = 0 then cs.filter (fun c => c.1 ≠ a) else putKey a v cs

/-- The cells after consecutive bytes are written. -/
def putBytes (a : Nat) : List Byte → List Host.Cell → List Host.Cell
  | [], cs => cs
  | v :: vs, cs => putBytes (a + 1) vs (putByte a v cs)

/-- Writes consecutive bytes from address `a`; every word touched gets fresh check bits, so its damage goes (R46). -/
def FaceMemory.write (m : FaceMemory) (a : Nat) (vs : List Byte) : FaceMemory :=
  { cells := putBytes a vs m.cells
    damage := m.damage.filter (fun d => ¬ (a / 8 ≤ d.1 ∧ 8 * d.1 < a + vs.length)) }

/-- Writes zero, with fresh check bits, to every word of `n` bytes from `a`; both are multiples of 8 (R54). -/
def FaceMemory.scrub (m : FaceMemory) (a n : Nat) : FaceMemory :=
  { cells := m.cells.filter (fun c => ¬ (a ≤ c.1 ∧ c.1 < a + n))
    damage := m.damage.filter (fun d => ¬ (a ≤ 8 * d.1 ∧ 8 * d.1 < a + n)) }

/-- The worse of two results of reading a word. -/
def worse : ReadResult → ReadResult → ReadResult
  | .uncorrectable, _ => .uncorrectable
  | _, .uncorrectable => .uncorrectable
  | .corrected, _ => .corrected
  | .clean, r => r

/-- What reading word `w` gives when the memory devices report `now`: damage stays until the word is next written
(R46), so a damaged word is met again by later reads. -/
def FaceMemory.readResult (m : FaceMemory) (w : Nat) (now : ReadResult) : ReadResult :=
  worse ((getKey w m.damage).getD .clean) now

/-- Face memory after the read of word `w` has given `r`: the data is unchanged, the damage found is kept (R46). -/
def FaceMemory.noteDamage (m : FaceMemory) (w : Nat) (r : ReadResult) : FaceMemory :=
  if r = .clean then m else { m with damage := putKey w r m.damage }

/-- First byte of a slot's grey area (R45). -/
def greyBase (k : Slot) : Nat := k.val * Config.slotBytes

/-- First byte of a slot's coded area (R45). -/
def codedBase (k : Slot) : Nat := k.val * Config.slotBytes + Config.greyBytes

/-- First byte of a pass-through entry (R45). -/
def passEntryBase (e : PassIx) : Nat := Config.passBase + e.val * Config.passEntryBytes

end Sys2Proof.Machine
end

