-- ==== Sys2Proof/Machine/State.lean ====
section
/-! DEFINITION. The state of the part, block by block as section 4.1 of 00_scope.md names the blocks, the reasons a
command can stop, and the state right after pin reset. Plain data throughout. -/

namespace Sys2Proof.Machine

/-! ## Reasons to stop -/

/-- The reasons a command ends in a fault. -/
inductive Fault
  /-- Raised by VERIFY_READ for a word outside the 48 slots and by PASS_THROUGH_READ for a word outside the record being
  sent: the part reads no such word (R17, R199, log entry 27). Safe: the part has no such step. -/
  | noSuchWord
deriving DecidableEq, Repr

/-- The reasons a command is refused. -/
inductive Refusal
  /-- Raised by `exec` alone, for a command that has no meaning yet; no arm raises it. Safe: nothing is claimed. -/
  | notModelled (mnemonic : String)
deriving DecidableEq, Repr

/-! ## Fault Monitor -/

/-- The part state; while the reset input is held low there is none (R195, R196). -/
inductive PartState
  | held
  | starting
  | operating
  | bypass
deriving DecidableEq, Repr

/-- The causes of a fatal fault (R204). -/
inductive FaultCause
  | scrubVerify
  | memoryLimit
  | tableParity
deriving DecidableEq, Repr

/-- Fault Monitor: part state and fault latch (R195, R205). -/
structure Flm where
  part  : PartState
  latch : Option FaultCause
deriving DecidableEq, Repr

/-! ## Ingress Link Unit -/

/-- States of the link qualification monitor (R10). -/
inductive MonitorState
  | hunt
  | sync
  | down
deriving DecidableEq, Repr

/-- The link qualification monitor (R10 to R13): its state, the 15-bit predictor, the position in the current trial (15
seed bits, then 128 compared) or block (128 bits), the mismatches found in it, and the mismatch count. -/
structure Monitor where
  state      : MonitorState
  predictor  : BitVec 15
  position   : Nat
  mismatches : Nat
  count      : Count
deriving DecidableEq, Repr

/-- Ingress Link Unit: monitor, its activity timer (running or not, R12), whether a record is being received (R1), the
three ingress counters (R7), and the eighth of the pacing period (R61). -/
structure Ilu where
  monitor       : Monitor
  activityTimer : Bool
  recordOpen    : Bool
  headerFaults  : Count
  payloadFaults : Count
  unknownKinds  : Count
  eighth        : Fin 8
deriving DecidableEq, Repr

/-! ## Directive Unit's tables -/

/-- The over-ceiling policy of a profile (R118). -/
inductive Policy
  | emitFlagged
  | withhold
deriving DecidableEq, Repr

/-- The fields of a profile (R176). -/
structure Profile where
  outDpi        : Nat
  toneSlot      : Nat
  k             : Nat
  tmin          : Nat
  tmax          : Nat
  guardBand     : Nat
  l             : Nat
  codeSlot      : Nat
  ceiling       : Nat
  floor         : Nat
  maxAttempts   : Nat
  ratioStep     : Nat
  despeckleStep : Bool
  policy        : Policy
  d             : Nat
  stallTimeout  : Nat
  ruleMask      : BitVec 32
  rowRepeat     : Bool
  inversion     : Bool
deriving DecidableEq, Repr

/-- An entry of the profile table (R176). -/
structure ProfileEntry where
  valid  : Bool
  fields : Profile
deriving DecidableEq, Repr

/-- One code of a code table: its length in bits and its value (R100). -/
structure CodeEntry where
  length : Nat
  value  : Nat
deriving DecidableEq, Repr

/-- A loadable code table slot: valid flag and the 212 entries in the order of R100. -/
structure CodeSlot where
  valid   : Bool
  entries : List CodeEntry
deriving DecidableEq, Repr

/-- A loadable tone curve slot: valid flag and 256 entries (R75). -/
structure ToneSlot where
  valid : Bool
  curve : List Byte
deriving DecidableEq, Repr

/-- Sides of an item (R19). -/
inductive Side
  | front
  | back
deriving DecidableEq, Repr

/-- Side filter of a rule (R131). -/
inductive SideFilter
  | front
  | back
  | any
deriving DecidableEq, Repr

/-- Measures of a rule (R135). -/
inductive Measure
  | blackRatio
  | meanGrey
  | outWidth
  | outHeight
  | codedBytes
  | attempts
  | captureDpi
  | flagsAny
deriving DecidableEq, Repr

/-- Comparisons of a rule (R136). -/
inductive Comparison
  | less
  | lessOrEqual
  | equal
  | notEqual
  | greaterOrEqual
  | greater
deriving DecidableEq, Repr

/-- Actions of a rule (R139). -/
inductive RuleAction
  | note
  | suspect
  | withhold
deriving DecidableEq, Repr

/-- An entry of the rule table (R131). -/
structure Rule where
  valid      : Bool
  side       : SideFilter
  measure    : Measure
  comparison : Comparison
  value      : BitVec 32
  needs      : Option (Fin 16)
  sets       : Fin 16
  action     : RuleAction
deriving DecidableEq, Repr

/-! ## Notices and the Directive Unit -/

/-- Notice kinds (R21). -/
inductive NoticeKind
  | answer
  | quiesceGrant
  | roleApplied
  | fencePassed
  | storeWritten
  | itemLost
  | link
  | ready
  | fault
deriving DecidableEq, Repr

/-- Notice statuses (R21). -/
inductive Status
  | done
  | accepted
  | badCheck
  | starting
  | unknown
  | badLength
  | notQuiesced
  | range
  | busy
  | tableInvalid
  | withdrawn
deriving DecidableEq, Repr

/-- A notice: kind, status, subject, tag, and the kind-specific fields as bytes (R21, R173). -/
structure Notice where
  kind    : NoticeKind
  status  : Status
  subject : Byte
  tag     : Tag
  fields  : List Byte
deriving DecidableEq, Repr

/-- The quiesce state (R183). -/
inductive QuiesceState
  | running
  | quiescing
  | quiesced
deriving DecidableEq, Repr

/-- Directive Unit: profile table, code table slots 1 to 3, tone curve slots 1 to 7, rule table, quiesce state and
owed-grant list, notice queue and notices-lost count, on-demand duty (R64, R75, R100, R131, R171, R176, R183). -/
structure Dru where
  profiles  : Vector ProfileEntry 32
  codeSlots : Vector CodeSlot 3
  toneSlots : Vector ToneSlot 7
  rules     : Vector Rule 32
  quiesce   : QuiesceState
  owed      : List Tag
  notices   : List Notice
  lost      : Count
  duty      : Nat
deriving DecidableEq, Repr

/-! ## Stream Tracker -/

/-- Stream map roles (section 2.1). -/
inductive Role
  | pass
  | own
deriving DecidableEq, Repr

/-- An entry of the stream map: role, and the pending role with the tag that requested it (section 2.1). -/
structure MapEntry where
  role    : Role
  pending : Option (Role × Tag)
deriving DecidableEq, Repr

/-- States of a stream context (section 2.2). -/
inductive CtxState
  | idle
  | item
  | face
  | discard
deriving DecidableEq, Repr

/-- A stream context (R25): state, current item, current face (its place in the item's face list), rows received, and
the stall timer: `some p` running with its period of `p` times 10 ms, `none` stopped (R42). -/
structure StreamCtx where
  state : CtxState
  item  : Option ItemIx
  face  : Option Nat
  rows  : Nat
  timer : Option Nat
deriving DecidableEq, Repr

/-- States of a face record (R28). -/
inductive FaceState
  | filling
  | ready
  | converting
  | final
deriving DecidableEq, Repr

/-- The seven dispositions (R20). -/
inductive Disposition
  | coded
  | codedOver
  | withheldOver
  | withheldRule
  | refusedGeometry
  | refusedNoSlot
  | abandoned
deriving DecidableEq, Repr

/-- A face record (section 2.3). -/
structure FaceRecord where
  side        : Side
  captureDpi  : Nat
  declWidth   : Nat
  declHeight  : Nat
  keptWidth   : Nat
  keptHeight  : Nat
  outWidth    : Nat
  outHeight   : Nat
  slot        : Option Slot
  state       : FaceState
  meanGrey    : Nat
  blackCount  : Nat
  blackRatio  : Nat
  codedBytes  : Nat
  attempts    : Nat
  finalK      : Nat
  finalL      : Nat
  flags       : BitVec 32
  disposition : Option Disposition
deriving DecidableEq, Repr

/-- States of an item record (R27). -/
inductive ItemState
  | opened
  | closed
  | decided
  | releasing
deriving DecidableEq, Repr

/-- The outcomes an item record can hold; PENDING is never one of them (R147). -/
inductive ItemOutcome
  | accepted
  | suspect
  | partialOutcome
  | failed
  | cancelled
  | stalled
deriving DecidableEq, Repr

/-- An item record (section 2.3). -/
structure ItemRecord where
  stream      : Stream
  seq         : BitVec 32
  declared    : Nat
  profile     : Profile
  state       : ItemState
  faces       : List FaceRecord
  flags       : BitVec 8
  outcome     : Option ItemOutcome
  overtaken   : Nat
  pendingSent : Bool
deriving DecidableEq, Repr

/-- Stream Tracker: stream map, contexts, item table, three counters (R22, R25, R26, R44). -/
structure Stk where
  map      : Vector MapEntry 16
  contexts : Vector StreamCtx 16
  items    : Vector (Option ItemRecord) 32
  orphans  : Count
  accepted : Count
  lost     : Count
deriving DecidableEq, Repr

/-! ## Scaling Unit -/

/-- An input row waiting for the Scaling Unit: received samples of the kept width, or a white row (R36, R37, R73). -/
inductive InputRow
  | samples (row : List Byte)
  | white
deriving DecidableEq, Repr

/-- A scaling context in use (R66), with the rows handed over and not yet taken, in order, and whether the Stream
Tracker has reported the end of the face's input (R72, R78). -/
structure ScaleCtx where
  step       : Nat
  outWidth   : Nat
  outHeight  : Nat
  keptWidth  : Nat
  keptHeight : Nat
  toneSlot   : Nat
  rowsTaken  : Nat
  lineRow    : Nat
  line       : List Nat
  lastRow    : Option (List Byte)
  greySum    : Nat
  waiting    : List InputRow
  inputEnded : Bool
deriving DecidableEq, Repr

/-! ## Face Memory Controller -/

/-- The six slot states (R48). -/
inductive SlotState
  | free
  | filling
  | ready
  | converting
  | coded
  | scrubbing
deriving DecidableEq, Repr

/-- Face Memory Controller: slot states, ready queue, scrub order, error counts and limit tally, automatic mark and
pacing flag, the start-up verify in progress (`some ok`, `ok` while no word has failed), and face memory itself (R46,
R47, R48, R51, R54, R56, R62). -/
structure Fmc where
  slots         : Vector SlotState 48
  ready         : List Slot
  scrubOrder    : List Slot
  corrected     : Count
  uncorrectable : Count
  tally         : Count
  mark          : Nat
  pacing        : Bool
  verify        : Option Bool
  mem           : FaceMemory
deriving DecidableEq, Repr

/-! ## Conversion Engine -/

/-- The run coder's state for the current attempt (R105); the running byte count is computed from the bit count. -/
structure Coder where
  bitCount     : Nat
  hand         : List Bool
  wordsWritten : Nat
  rowsCoded    : Nat
  previous     : Option (List Bool)
deriving DecidableEq, Repr

/-- Where the engine stands with its face: working rows; at the row boundary between an attempt that ended OVER and the next,
of which nothing is read yet (R94, R128); waiting for the write of the attempt's last word (R114); or the Quality Rule Unit
evaluating, with the working word of flags and the disposition of step 1 of R127 (R133). -/
inductive Phase
  | rows
  | boundary
  | lastWord
  | evaluating (working : BitVec 32) (disposition : Disposition)
deriving DecidableEq, Repr

/-- The Conversion Engine's work state (R81, R82, R105, R119). -/
structure Work where
  item        : ItemIx
  face        : Nat
  slot        : Slot
  width       : Nat
  height      : Nat
  params      : Profile
  attempt     : Nat
  k           : Nat
  l           : Nat
  limit       : Nat
  nextRow     : Nat
  background  : List Nat
  window      : List (List Bool)
  released    : Nat
  black       : Nat
  abandonMark : Bool
  coder       : Coder
  phase       : Phase
deriving DecidableEq, Repr

/-! ## Release Engine -/

/-- An entry of a release queue (R148). -/
inductive QueueEntry
  | item (ix : ItemIx) (released : Bool)
  | fence (tag : Tag)
deriving DecidableEq, Repr

/-- A record of a release (R155): a PENDING marker for an overtaken item; the CODED HEAD of a face; a CODED SEGMENT of a
face; the final ITEM RESULT. -/
inductive ReleaseRec
  | marker (ix : ItemIx)
  | head (face : Nat)
  | segment (face index : Nat)
  | result
deriving DecidableEq, Repr

/-- A release in progress (R153, R155): its item, the record in hand, that record as composed and offered (`none` while a
segment is being composed, R159), and the records still to come. -/
structure Release where
  item    : ItemIx
  current : ReleaseRec
  offered : Option Record
  rest    : List ReleaseRec
deriving DecidableEq, Repr

/-- Release Engine: release queues, arbiter position, the release in progress (R148, R153). -/
structure Rel where
  queues   : Vector (List QueueEntry) 16
  position : Stream
  release  : Option Release
deriving DecidableEq, Repr

/-! ## Egress Link Unit -/

/-- The three requesters of the egress arbiter (R15). -/
inductive Requester
  | passThrough
  | notices
  | release
deriving DecidableEq, Repr

/-- What a record on the egress came from. -/
inductive Source
  | passThrough
  | notices
  | release
  | fill
deriving DecidableEq, Repr

/-- The egress link: idle characters while the part is held in reset (R196), between records, or sending a record, given by
its source and the bytes between its delimiters. -/
inductive EgressLink
  | idleCharacters
  | between
  | sending (source : Source) (bytes : List Byte)
deriving DecidableEq, Repr

/-- An entry of the pass-through FIFO: where its bytes stand in the pass-through region, and how many (R17, R45). -/
structure PassEntry where
  entry  : PassIx
  length : Nat
deriving DecidableEq, Repr

/-- Egress Link Unit: arbiter position, fill generator, mark-error request, the link, the egress hold input, the
pass-through FIFO and its overflow count (R8, R9, R15, R16, R17). -/
structure Elu where
  position  : Requester
  fillGen   : BitVec 15
  markError : Bool
  link      : EgressLink
  holdInput : Bool
  fifo      : List PassEntry
  overflow  : Count
deriving DecidableEq, Repr

/-! ## Start-up Store -/

/-- The four settings of the store (R200). -/
structure Settings where
  station     : Nat
  mask        : BitVec 16
  mark        : Nat
  linkNotices : Bool
deriving DecidableEq, Repr

/-- The store write state, with the contents and the tag the write carries (R202). -/
inductive StoreWrite
  | idle
  | erasing (contents : Settings) (tag : Tag)
  | programming (contents : Settings) (tag : Tag)
deriving DecidableEq, Repr

/-- Start-up Store: the six cells, the working settings, the indication recorded when they were loaded, and the store
write state (R200 to R202). -/
structure Sus where
  cells      : Vector Byte 6
  working    : Settings
  storeValid : Bool
  write      : StoreWrite
deriving DecidableEq, Repr

/-! ## The whole part -/

/-- The state of the part, and two fields of the model's own: `freeUsed`, how many free values have been used (log entry
6), and `pending`, the commands waiting, first in, first out. -/
structure State where
  flm      : Flm
  ilu      : Ilu
  stk      : Stk
  scu      : Vector (Option ScaleCtx) 48
  fmc      : Fmc
  cnv      : Option Work
  rel      : Rel
  elu      : Elu
  dru      : Dru
  sus      : Sus
  freeUsed : Nat
  pending  : List Instr
deriving DecidableEq, Repr

/-! ## Reset -/

/-- Profile entry 0 after pin reset (R176). -/
def Profile.factory : Profile :=
  { outDpi := 200, toneSlot := 0, k := 200, tmin := 40, tmax := 220, guardBand := 48, l := 1, codeSlot := 0,
    ceiling := 65536, floor := 2048, maxAttempts := 3, ratioStep := 16, despeckleStep := true, policy := .emitFlagged,
    d := 0, stallTimeout := 50, ruleMask := BitVec.allOnes 32, rowRepeat := true, inversion := true }

/-- A profile with every field 0 (R176). -/
def Profile.zero : Profile :=
  { outDpi := 0, toneSlot := 0, k := 0, tmin := 0, tmax := 0, guardBand := 0, l := 0, codeSlot := 0, ceiling := 0,
    floor := 0, maxAttempts := 0, ratioStep := 0, despeckleStep := false, policy := .emitFlagged, d := 0,
    stallTimeout := 0, ruleMask := 0, rowRepeat := false, inversion := false }

/-- An invalid rule entry; its other fields have no effect (R131, log entry 5). -/
def Rule.blank : Rule :=
  { valid := false, side := .front, measure := .blackRatio, comparison := .less, value := 0, needs := none, sets := 0,
    action := .note }

/-- The values a blank store gives (R200). -/
def Settings.blank : Settings := { station := 30, mask := 0, mark := 8, linkNotices := false }

/-- A context with no item open (R25). -/
def StreamCtx.idle : StreamCtx := { state := .idle, item := none, face := none, rows := 0, timer := none }

/-- The FILL sent from the release of pin reset, and the generator after it (R8, R197). -/
def firstFill : List Byte × BitVec 15 := fillPayload (BitVec.allOnes 15) false

/-- The part right after the release of pin reset with a factory-blank store (R197): STARTING, every slot waiting for the
start-up scrub, and the first FILL started on the egress. -/
def State.reset : State :=
  { flm := { part := .starting, latch := none }
    ilu := { monitor := { state := .hunt, predictor := 0, position := 0, mismatches := 0, count := 0 }
             activityTimer := true, recordOpen := false, headerFaults := 0, payloadFaults := 0, unknownKinds := 0
             eighth := 0 }
    stk := { map := Vector.replicate 16 { role := .pass, pending := none }
             contexts := Vector.replicate 16 StreamCtx.idle
             items := Vector.replicate 32 none
             orphans := 0, accepted := 0, lost := 0 }
    scu := Vector.replicate 48 none
    fmc := { slots := Vector.replicate 48 .scrubbing, ready := [], scrubOrder := List.finRange 48
             corrected := 0, uncorrectable := 0, tally := 0, mark := 8, pacing := false, verify := none
             mem := { cells := [], damage := [] } }
    cnv := none
    rel := { queues := Vector.replicate 16 [], position := 0, release := none }
    elu := { position := .release, fillGen := firstFill.2, markError := false
             link := .sending .fill (recordBytes (fillRecord firstFill.1)), holdInput := false, fifo := [], overflow := 0 }
    dru := { profiles := (Vector.replicate 32 { valid := false, fields := Profile.zero }).set 0
               { valid := true, fields := Profile.factory }
             codeSlots := Vector.replicate 3 { valid := false, entries := List.replicate 212 { length := 0, value := 0 } }
             toneSlots := Vector.replicate 7 { valid := false, curve := List.replicate 256 0 }
             rules := Vector.replicate 32 Rule.blank
             quiesce := .running, owed := [], notices := [], lost := 0, duty := 0 }
    sus := { cells := Vector.replicate 6 0xFF, working := Settings.blank, storeValid := false, write := .idle }
    freeUsed := 0
    pending := [] }

end Sys2Proof.Machine
end

