-- ==== Sys2Proof/Machine/Flags.lean ====
section
/-! DEFINITION. The face flags word and the item flags (R20), as masks on the words the exchange sees. -/

namespace Sys2Proof.Machine

/-- Rule flag Qn of the face flags word, bit n (R20). -/
def flagQ (n : Fin 16) : BitVec 32 := (1 : BitVec 32) <<< n.val
/-- SHORT, bit 16. -/
def flagShort : BitVec 32 := 0x00010000
/-- CROPPED, bit 17. -/
def flagCropped : BitVec 32 := 0x00020000
/-- EXCESS_ROWS, bit 18. -/
def flagExcessRows : BitVec 32 := 0x00040000
/-- DATA_LOSS, bit 19. -/
def flagDataLoss : BitVec 32 := 0x00080000
/-- RES_CLAMPED, bit 20. -/
def flagResClamped : BitVec 32 := 0x00100000
/-- NOT_REDUCED, bit 21. -/
def flagNotReduced : BitVec 32 := 0x00200000
/-- UNDERSIZE, bit 22. -/
def flagUndersize : BitVec 32 := 0x00400000
/-- OVER_CEILING, bit 23. -/
def flagOverCeiling : BitVec 32 := 0x00800000
/-- MEMORY_FAULT, bit 24. -/
def flagMemoryFault : BitVec 32 := 0x01000000
/-- SUSPECT, bit 25. -/
def flagSuspect : BitVec 32 := 0x02000000

/-- No flag of a face flags word. -/
def noFlags : BitVec 32 := 0

/-- Adds the flag when the condition holds. -/
def flagIf (c : Bool) (f : BitVec 32) : BitVec 32 := if c then f else noFlags

/-- Some flag of the mask is set in the word. -/
def anyFlag (w mask : BitVec 32) : Bool := w &&& mask != 0

/-- Sets flags of a face record; a flag once set stays set (R28). -/
def FaceRecord.setFlags (f : FaceRecord) (m : BitVec 32) : FaceRecord := { f with flags := f.flags ||| m }

/-- PROFILE_SUBST, bit 0 of the item flags (R20). -/
def itemProfileSubst : BitVec 8 := 0x01
/-- IMPLICIT_CLOSE, bit 1. -/
def itemImplicitClose : BitVec 8 := 0x02
/-- MISSING_FACE, bit 2. -/
def itemMissingFace : BitVec 8 := 0x04
/-- EXTRA_FACE, bit 3. -/
def itemExtraFace : BitVec 8 := 0x08
/-- COUNT_ADJUSTED, bit 4. -/
def itemCountAdjusted : BitVec 8 := 0x10
/-- OUT_OF_ORDER, bit 5. -/
def itemOutOfOrder : BitVec 8 := 0x20
/-- DEFERRED, bit 6. -/
def itemDeferred : BitVec 8 := 0x40

/-- Adds the item flag when the condition holds. -/
def itemFlagIf (c : Bool) (f : BitVec 8) : BitVec 8 := if c then f else 0

/-- Sets flags of an item record. -/
def ItemRecord.setFlags (r : ItemRecord) (m : BitVec 8) : ItemRecord := { r with flags := r.flags ||| m }

end Sys2Proof.Machine
end

