-- ==== Sys2Proof/Machine/Bitonal.lean ====
section
/-! DEFINITION. The arithmetic of bitonal conversion: attempt parameters, threshold, background, despeckle (Chapter 5). A
row is a list of pixels, `true` black. -/

namespace Sys2Proof.Machine

/-- Threshold ratio of attempt `a` (R83). -/
def attemptK (p : Profile) (a : Nat) : Nat := max 16 (p.k - a * p.ratioStep)

/-- Despeckle level of attempt `a` (R83). -/
def attemptL (p : Profile) (a : Nat) : Nat := if p.despeckleStep then min 3 (p.l + a) else p.l

/-- The limit of attempt `a` in bytes (R119). -/
def attemptLimit (p : Profile) (a : Nat) : Nat :=
  if a + 1 = p.maxAttempts ∧ p.policy = .emitFlagged then Config.codedArea else p.ceiling

/-- The threshold of a pixel from its background value (R86). -/
def threshold (k tmin tmax bg : Nat) : Nat :=
  let t := bg * k / 4096
  if t < tmin then tmin else if tmax < t then tmax else t

/-- A pixel is black when its grey value is below the threshold (R86). -/
def isBlack (k tmin tmax bg : Nat) (g : Byte) : Bool := decide (g.toNat < threshold k tmin tmax bg)

/-- The thresholded row, from the background values as they stood before this row's update (R86). -/
def thresholdRow (k tmin tmax : Nat) (bg : List Nat) (row : List Byte) : List Bool :=
  List.zipWith (isBlack k tmin tmax) bg row

/-- A background value after its column's grey value: an eighth of the way towards it, rounded toward zero, unless the
grey value is darker than the background by more than the guard (R87). -/
def nextBackground (guardBand bg : Nat) (g : Byte) : Nat :=
  if bg ≤ 16 * g.toNat + 16 * guardBand then
    if bg ≤ 16 * g.toNat then bg + (16 * g.toNat - bg) / 8 else bg - (bg - 16 * g.toNat) / 8
  else bg

/-- The background line after a row (R87). -/
def nextBackgroundLine (guardBand : Nat) (bg : List Nat) (row : List Byte) : List Nat :=
  List.zipWith (nextBackground guardBand) bg row

/-- A row seen one column to the left: what stands left of each pixel, white outside the face. -/
def leftOf (r : List Bool) : List Bool := false :: r.dropLast

/-- What stands right of each pixel, white outside the face. -/
def rightOf (r : List Bool) : List Bool := r.tail ++ [false]

/-- Column by column sum of black pixels. -/
def addBlack (ns : List Nat) (r : List Bool) : List Nat := List.zipWith (fun n b => n + b.toNat) ns r

/-- Black pixels among the eight positions around each pixel of the middle row (R89). -/
def blackNeighbours (above row below : List Bool) : List Nat :=
  let z := List.replicate row.length 0
  [above, leftOf above, rightOf above, leftOf row, rightOf row, below, leftOf below, rightOf below].foldl addBlack z

/-- Despeckle at a level: a black pixel whose black neighbours number at most `level - 1` becomes white (R89). -/
def despeckle (level : Nat) (above row below : List Bool) : List Bool :=
  List.zipWith (fun b n => b && decide (level ≤ n)) row (blackNeighbours above row below)

/-- A row of the face's width lying outside the face. -/
def whiteRow (w : Nat) : List Bool := List.replicate w false

/-- Black pixels of a row. -/
def blackIn (r : List Bool) : Nat := r.count true

/-- Black ratio in parts per ten thousand of the whole face (R91). -/
def blackRatioOf (black w h : Nat) : Nat := black * 10000 / (w * h)

end Sys2Proof.Machine
end

