-- ==== Sys2Proof/Machine/Coding.lean ====
section
/-! DEFINITION. The run coder: code tables, row grammar, runs, packing (Chapter 6). -/

namespace Sys2Proof.Machine

/-- The entries of the fixed slot 0 in the order of R100 (R101). -/
def fixedEntries : List CodeEntry :=
  let terminals := (List.range 64).map (fun n => { length := 7, value := n : CodeEntry })
  let bulks := (List.range 40).map (fun m => { length := 7, value := 64 + m : CodeEntry })
  (List.range 4).map (fun n => { length := 2, value := n : CodeEntry }) ++ terminals ++ bulks ++ terminals ++ bulks

/-- The entries of a code table slot (R100). -/
def slotEntries (d : Dru) (n : Nat) : List CodeEntry :=
  if n = 0 then fixedEntries else if h : n - 1 < 3 then (d.codeSlots[n - 1]).entries else fixedEntries

/-- The four control codes, in the order of R100. -/
inductive Control
  | plain
  | invert
  | repeatRow
  | faceEnd
deriving DecidableEq, Repr

/-- A code the coder selects: a control code, or a terminal or bulk code of the white or the black set (R100). -/
inductive CodeName
  | control (c : Control)
  | terminal (black : Bool) (n : Nat)
  | bulk (black : Bool) (m : Nat)
deriving DecidableEq, Repr

/-- Place of a control code. -/
def controlIndex : Control → Nat
  | .plain => 0
  | .invert => 1
  | .repeatRow => 2
  | .faceEnd => 3

/-- Place of a code among the 212 entries: control 0 to 3, white from 4, black from 108; in a colour's set the 64
terminals, then bulk run 64 * m as its m-th bulk entry (R100). -/
def codeIndex : CodeName → Nat
  | .control c => controlIndex c
  | .terminal black n => (if black then 108 else 4) + n
  | .bulk black m => (if black then 108 else 4) + 64 + (m - 1)

/-- The bits of a code: the value in `length` bits, most significant first (R100). -/
def codeBits (e : CodeEntry) : List Bool :=
  (List.range e.length).map (fun i => e.value.testBit (e.length - 1 - i))

/-- The lengths of the alternating runs of a row from a run of `colour` already `n` long (R110). -/
def runsFrom (colour : Bool) (n : Nat) : List Bool → List Nat
  | [] => [n]
  | p :: ps => if p = colour then runsFrom colour (n + 1) ps else n :: runsFrom p 1 ps

/-- The runs of a row, the first of them white and possibly 0 (R110). -/
def runs (row : List Bool) : List Nat := runsFrom false 0 row

/-- The codes of one run (R111). -/
def runCodes (black : Bool) (n : Nat) : List CodeName :=
  if n < 64 then [.terminal black n] else [.bulk black (n / 64), .terminal black (n % 64)]

/-- The codes of alternating runs. -/
def runListCodes (black : Bool) : List Nat → List CodeName
  | [] => []
  | n :: ns => runCodes black n ++ runListCodes (!black) ns

/-- The control code of a row (R107, R108). -/
def rowControl (p : Profile) (previous : Option (List Bool)) (row : List Bool) : Control :=
  if p.rowRepeat ∧ previous = some row then .repeatRow
  else if p.inversion ∧ row.length / 2 < blackIn row then .invert
  else .plain

/-- All the codes of a row, control code first (R106, R107, R109). -/
def rowCodes (p : Profile) (previous : Option (List Bool)) (row : List Bool) : List CodeName :=
  match rowControl p previous row with
  | .repeatRow => [.control .repeatRow]
  | .invert => .control .invert :: runListCodes false (runs (row.map (!·)))
  | c => .control c :: runListCodes false (runs row)

/-- The coder at work in one step: its state, the whole 8-byte words it has issued in this step, and whether the attempt
has stopped OVER. -/
structure CodeRun where
  coder   : Coder
  words   : List (List Byte)
  stopped : Bool
deriving DecidableEq, Repr

/-- The coder at the start of an attempt (R105). -/
def Coder.fresh : Coder := { bitCount := 0, hand := [], wordsWritten := 0, rowsCoded := 0, previous := none }

/-- The running byte count (R105). -/
def Coder.bytes (c : Coder) : Nat := (c.bitCount + 7) / 8

/-- Appends one code: its bits join the word in hand, a whole word is issued, and the running byte count is compared with
the limit. After OVER nothing more is appended (R112, R113, R115, R120). -/
def appendCode (entries : List CodeEntry) (limit : Nat) (r : CodeRun) (name : CodeName) : CodeRun :=
  if r.stopped then r
  else
    let e := entries.getD (codeIndex name) { length := 0, value := 0 }
    let hand := r.coder.hand ++ codeBits e
    let bits := r.coder.bitCount + e.length
    let stop := decide (limit < (bits + 7) / 8)
    if 64 ≤ hand.length then
      { coder := { r.coder with bitCount := bits, hand := hand.drop 64, wordsWritten := r.coder.wordsWritten + 1 }
        words := r.words ++ [packBytes (hand.take 64)], stopped := stop }
    else { coder := { r.coder with bitCount := bits, hand := hand }, words := r.words, stopped := stop }

/-- Codes one released row; a row that stops in its middle is neither kept as the previous row nor counted (R106). -/
def codeRow (entries : List CodeEntry) (p : Profile) (limit : Nat) (r : CodeRun) (row : List Bool) : CodeRun :=
  let done := (rowCodes p r.coder.previous row).foldl (appendCode entries limit) r
  if done.stopped then done
  else { done with coder := { done.coder with previous := some row, rowsCoded := done.coder.rowsCoded + 1 } }

/-- The attempt's last word: the bits in hand filled with zero, nothing when none is in hand (R114). -/
def lastWordBytes (c : Coder) : List Byte :=
  if c.hand = [] then [] else packBytes (c.hand ++ List.replicate (64 - c.hand.length) false)

end Sys2Proof.Machine
end

