-- ==== Sys2Proof/Machine/Operands.lean ====
section
/-! DEFINITION. The parameters of the directives: their places in the payload (R21), their ranges (R169, R176 to R178,
R180 to R182, R190, R192), and the sum check of a code table (R103). Offsets count the code byte as 0. -/

namespace Sys2Proof.Machine

/-- The parameter of `n` bytes at offset `o` of a directive payload. -/
def param (p : List Byte) (o n : Nat) : Nat := beNat ((p.drop o).take n)

/-- The first offset whose field is out of range, the fields being listed in the order of their offsets (R169). -/
def firstOutOfRange : List (Nat × Bool) → Option Nat
  | [] => none
  | (o, ok) :: rest => if ok then firstOutOfRange rest else some o

/-- A bound on a parameter. -/
def inRange (lo hi v : Nat) : Bool := decide (lo ≤ v) && decide (v ≤ hi)

/-- The whole payload length fixed for each directive code (R21); `none` is no directive code. -/
def directiveLength : Nat → Option Nat
  | 0x01 => some 2
  | 0x02 => some 31
  | 0x03 => some 2
  | 0x04 => some 638
  | 0x05 => some 258
  | 0x06 => some 13
  | 0x07 => some 3
  | 0x08 => some 1
  | 0x09 => some 1
  | 0x0A => some 1
  | 0x0B => some 3
  | 0x0C => some 2
  | 0x0D => some 1
  | 0x0E => some 6
  | 0x0F => some 1
  | _ => none

/-! ## Profiles -/

/-- Tone slot `n` is valid: slot 0 always, 1 to 7 by their flag (R75). -/
def toneValid (d : Dru) (n : Nat) : Bool :=
  n = 0 || (if h : n - 1 < 7 then (d.toneSlots[n - 1]).valid else false)

/-- Code table slot `n` is valid: slot 0 always, 1 to 3 by their flag (R100). -/
def codeValid (d : Dru) (n : Nat) : Bool :=
  n = 0 || (if h : n - 1 < 3 then (d.codeSlots[n - 1]).valid else false)

/-- The ranges of WRITE PROFILE, field by field in offset order (R169, R176, R177). -/
def profileRanges (d : Dru) (p : List Byte) : List (Nat × Bool) :=
  [(1, inRange 0 31 (param p 1 1)), (2, inRange 100 300 (param p 2 2)), (4, toneValid d (param p 4 1)),
   (5, inRange 32 255 (param p 5 1)), (7, decide (param p 6 1 ≤ param p 7 1)), (8, inRange 0 127 (param p 8 1)),
   (9, inRange 0 3 (param p 9 1)), (10, codeValid d (param p 10 1)), (11, inRange 1024 131072 (param p 11 4)),
   (15, decide (param p 15 4 ≤ param p 11 4)), (19, inRange 1 4 (param p 19 1)), (20, inRange 0 32 (param p 20 1)),
   (21, inRange 0 1 (param p 21 1)), (22, inRange 0 1 (param p 22 1)), (23, inRange 0 7 (param p 23 1)),
   (24, inRange 1 255 (param p 24 1)), (29, inRange 0 1 (param p 29 1)), (30, inRange 0 1 (param p 30 1))]

/-- The profile a WRITE PROFILE carries (R21). -/
def profileOf (p : List Byte) : Profile :=
  { outDpi := param p 2 2, toneSlot := param p 4 1, k := param p 5 1, tmin := param p 6 1, tmax := param p 7 1,
    guardBand := param p 8 1, l := param p 9 1, codeSlot := param p 10 1, ceiling := param p 11 4, floor := param p 15 4,
    maxAttempts := param p 19 1, ratioStep := param p 20 1, despeckleStep := param p 21 1 = 1,
    policy := if param p 22 1 = 1 then .withhold else .emitFlagged, d := param p 23 1, stallTimeout := param p 24 1,
    ruleMask := BitVec.ofNat 32 (param p 25 4), rowRepeat := param p 29 1 = 1, inversion := param p 30 1 = 1 }

/-- A profile's fields in the order and encoding of WRITE PROFILE payload bytes 2 to 30 (R178). -/
def profileBytes (f : Profile) : List Byte :=
  toBE 2 f.outDpi ++
    [byteOf f.toneSlot, byteOf f.k, byteOf f.tmin, byteOf f.tmax, byteOf f.guardBand, byteOf f.l, byteOf f.codeSlot] ++
    toBE 4 f.ceiling ++ toBE 4 f.floor ++
    [byteOf f.maxAttempts, byteOf f.ratioStep, byteOfBool f.despeckleStep, byteOfBool (f.policy = .withhold), byteOf f.d,
     byteOf f.stallTimeout] ++
    toBE 4 f.ruleMask.toNat ++ [byteOfBool f.rowRepeat, byteOfBool f.inversion]

/-! ## Code tables -/

/-- Entry `j` of LOAD CODE TABLE, in the order of R100: length, then a 2-byte value (R21). -/
def codeEntryOf (p : List Byte) (j : Nat) : CodeEntry :=
  { length := param p (2 + 3 * j) 1, value := param p (3 + 3 * j) 2 }

/-- The 212 entries of LOAD CODE TABLE. -/
def codeEntriesOf (p : List Byte) : List CodeEntry := (List.range 212).map (codeEntryOf p)

/-- An entry in range: length 1 to 16 and no value bit at or above the length (R102, R169). -/
def codeEntryOk (e : CodeEntry) : Bool := inRange 1 16 e.length && decide (e.value < 2 ^ e.length)

/-- The ranges of LOAD CODE TABLE: the slot, then each entry at its first byte (R169). -/
def codeTableRanges (p : List Byte) : List (Nat × Bool) :=
  (1, inRange 1 3 (param p 1 1)) :: (List.range 212).map (fun j => (2 + 3 * j, codeEntryOk (codeEntryOf p j)))

/-- The sum of 2^(16 - length) over a code set (R103). -/
def setSum (es : List CodeEntry) : Nat := (es.map (fun e => 2 ^ (16 - e.length))).sum

/-- The sum check on each of the three sets: control 4, white 104, black 104 entries (R100, R103). -/
def sumCheck (es : List CodeEntry) : Bool :=
  decide (setSum (es.take 4) ≤ 65536) && decide (setSum ((es.drop 4).take 104) ≤ 65536) &&
    decide (setSum ((es.drop 108).take 104) ≤ 65536)

/-! ## Rules -/

/-- The ranges of LOAD RULE (R21, R132). -/
def ruleRanges (p : List Byte) : List (Nat × Bool) :=
  [(1, inRange 0 31 (param p 1 1)), (2, inRange 0 1 (param p 2 1)), (3, inRange 0 2 (param p 3 1)),
   (4, inRange 0 7 (param p 4 1)), (5, inRange 0 5 (param p 5 1)),
   (10, inRange 0 15 (param p 10 1) || decide (param p 10 1 = 255)), (11, inRange 0 15 (param p 11 1)),
   (12, inRange 0 2 (param p 12 1))]

/-- Side filter encodings (R21). -/
def sideFilterOf : Nat → SideFilter
  | 0 => .front
  | 1 => .back
  | _ => .any

/-- Measure encodings (R21). -/
def measureOf : Nat → Measure
  | 0 => .blackRatio
  | 1 => .meanGrey
  | 2 => .outWidth
  | 3 => .outHeight
  | 4 => .codedBytes
  | 5 => .attempts
  | 6 => .captureDpi
  | _ => .flagsAny

/-- Comparison encodings (R21). -/
def comparisonOf : Nat → Comparison
  | 0 => .less
  | 1 => .lessOrEqual
  | 2 => .equal
  | 3 => .notEqual
  | 4 => .greaterOrEqual
  | _ => .greater

/-- Action encodings (R21). -/
def actionOf : Nat → RuleAction
  | 0 => .note
  | 1 => .suspect
  | _ => .withhold

/-- The rule a LOAD RULE carries (R21, R132). -/
def ruleOf (p : List Byte) : Rule :=
  { valid := param p 2 1 = 1, side := sideFilterOf (param p 3 1), measure := measureOf (param p 4 1),
    comparison := comparisonOf (param p 5 1), value := BitVec.ofNat 32 (param p 6 4),
    needs := if param p 10 1 = 255 then none else some (Fin.ofNat 16 (param p 10 1)),
    sets := Fin.ofNat 16 (param p 11 1), action := actionOf (param p 12 1) }

/-! ## Settings -/

/-- The ranges of WRITE START-UP (R192). -/
def settingsRanges (p : List Byte) : List (Nat × Bool) :=
  [(1, inRange 0 30 (param p 1 1)), (4, inRange 4 24 (param p 4 1)), (5, inRange 0 1 (param p 5 1))]

/-- The settings a WRITE START-UP carries (R21, R192). -/
def settingsOf (p : List Byte) : Settings :=
  { station := param p 1 1, mask := BitVec.ofNat 16 (param p 2 2), mark := param p 4 1, linkNotices := param p 5 1 = 1 }

/-- Settings as sent: station, mask, mark, link notices (R173, R193). -/
def settingsBytes (c : Settings) : List Byte :=
  [byteOf c.station] ++ toBE 2 c.mask.toNat ++ [byteOf c.mark, byteOfBool c.linkNotices]

/-- Cells 0 to 4 for a set of contents (R200). -/
def contentCells (c : Settings) : List Byte := settingsBytes c

/-- The check byte: the sum of cells 0 to 4 modulo 255 (R200). -/
def checkByte (cells : List Byte) : Byte := byteOf ((cells.map BitVec.toNat).sum % 255)

/-- The store judged at a read of its cells: `some` the contents when valid, `none` when blank (R200). -/
def readStore (cells : Vector Byte 6) : Option Settings :=
  let body := [cells[0], cells[1], cells[2], cells[3], cells[4]]
  if cells[5] ≠ 0xFF ∧ cells[5] = checkByte body ∧ cells[0].toNat ≤ 30 ∧ 4 ≤ cells[3].toNat ∧ cells[3].toNat ≤ 24 ∧
      cells[4].toNat ≤ 1 then
    some { station := cells[0].toNat, mask := BitVec.ofNat 16 (beNat [cells[1], cells[2]]), mark := cells[3].toNat,
           linkNotices := cells[4].toNat = 1 }
  else none

end Sys2Proof.Machine
end

