-- ==== Sys2Proof/Machine/Compose.lean ====
section
/-! DEFINITION. The records this part makes: notices, the status report, CODED HEAD, CODED SEGMENT, ITEM RESULT (R20, R21,
R173, R174, R193). -/

namespace Sys2Proof.Machine

/-- Notice kind codes (R21). -/
def noticeKindByte : NoticeKind → Byte
  | .answer => 0x01
  | .quiesceGrant => 0x02
  | .roleApplied => 0x03
  | .fencePassed => 0x04
  | .storeWritten => 0x05
  | .itemLost => 0x06
  | .link => 0x07
  | .ready => 0x08
  | .fault => 0x09

/-- Status codes (R21). -/
def statusByte : Status → Byte
  | .done => 0x00
  | .accepted => 0x01
  | .badCheck => 0x02
  | .starting => 0x03
  | .unknown => 0x04
  | .badLength => 0x05
  | .notQuiesced => 0x06
  | .range => 0x07
  | .busy => 0x08
  | .tableInvalid => 0x09
  | .withdrawn => 0x0A

/-- A notice's payload: the prefix, then its fields (R21). -/
def noticePayload (n : Notice) : List Byte := [noticeKindByte n.kind, statusByte n.status, n.subject] ++ n.fields

/-- A notice as the egress frames it: the working station as target, the notice's tag (R14, R171). -/
def noticeRecord (station : Nat) (n : Notice) : Record := madeRecord 0x31 (byteOf station) n.tag (noticePayload n)

/-- A notice other than an ANSWER; its subject is 0 (R21). -/
def eventNotice (kind : NoticeKind) (status : Status) (tag : Tag) (fields : List Byte) : Notice :=
  { kind := kind, status := status, subject := 0, tag := tag, fields := fields }

/-- Monitor state codes (R173). -/
def monitorByte : MonitorState → Byte
  | .hunt => 0
  | .sync => 1
  | .down => 2

/-- Part state codes (R174). A part held in reset answers nothing; its byte is never sent. -/
def partByte : PartState → Byte
  | .held => 0
  | .starting => 0
  | .operating => 1
  | .bypass => 2

/-- Fault cause codes (R204). -/
def causeByte : FaultCause → Byte
  | .scrubVerify => 1
  | .memoryLimit => 2
  | .tableParity => 3

/-- Quiesce state codes (R174). -/
def quiesceByte : QuiesceState → Byte
  | .running => 0
  | .quiescing => 1
  | .quiesced => 2

/-- Role codes (R173). -/
def roleByte : Role → Byte
  | .pass => 0
  | .own => 1

/-- Side codes (R19). -/
def sideByte : Side → Byte
  | .front => 0
  | .back => 1

/-- Disposition codes (R20). A face with no disposition is in no face entry. -/
def dispositionByte : Option Disposition → Byte
  | some .coded => 0
  | some .codedOver => 1
  | some .withheldOver => 2
  | some .withheldRule => 3
  | some .refusedGeometry => 4
  | some .refusedNoSlot => 5
  | some .abandoned => 6
  | none => 0

/-- Outcome codes (R20). -/
def outcomeByte : Option ItemOutcome → Byte
  | some .accepted => 0
  | some .suspect => 1
  | some .partialOutcome => 2
  | some .failed => 3
  | some .cancelled => 4
  | some .stalled => 5
  | none => 6

/-- A face entry of an ITEM RESULT, 20 bytes (R20). -/
def faceEntry (f : FaceRecord) : List Byte :=
  [sideByte f.side, dispositionByte f.disposition, byteOf f.attempts, byteOf f.finalK, byteOf f.finalL] ++
    toBE 4 f.codedBytes ++ toBE 2 f.blackRatio ++ [byteOf f.meanGrey] ++ toBE 4 f.flags.toNat ++
    toBE 2 f.outWidth ++ toBE 2 f.outHeight

/-- The payload of an ITEM RESULT with the given outcome code and face entries (R20). -/
def itemResultPayload (r : ItemRecord) (outcome : Byte) (faces : List FaceRecord) : List Byte :=
  toBE 4 r.seq.toNat ++ [outcome, r.flags, byteOf r.overtaken, byteOf faces.length] ++ faces.flatMap faceEntry

/-- The final ITEM RESULT of an item: every face of its list (R160). -/
def resultRecord (r : ItemRecord) : Record :=
  madeRecord 0x22 (byteOf r.stream.val) 0 (itemResultPayload r (outcomeByte r.outcome) r.faces)

/-- The PENDING marker of an overtaken item: outcome 6 and the faces that are FINAL (R157). -/
def markerRecord (r : ItemRecord) : Record :=
  madeRecord 0x22 (byteOf r.stream.val) 0 (itemResultPayload r 6 (r.faces.filter (fun f => f.state = .final)))

/-- The CODED HEAD of a kept face (R20, R158). -/
def headRecord (r : ItemRecord) (f : FaceRecord) : Record :=
  madeRecord 0x20 (byteOf r.stream.val) 0
    (toBE 4 r.seq.toNat ++ [sideByte f.side] ++ toBE 2 f.outWidth ++ toBE 2 f.outHeight ++ toBE 2 r.profile.outDpi ++
      [byteOf r.profile.codeSlot, byteOf f.finalK, byteOf f.finalL, byteOf f.attempts] ++ toBE 4 f.codedBytes)

/-- How many CODED SEGMENT records carry `c` coded bytes (R159). -/
def segmentCount (c : Nat) : Nat := (c + Config.segmentBytes - 1) / Config.segmentBytes

/-- Data bytes of segment `i` of `c` coded bytes (R159). -/
def segmentLength (c i : Nat) : Nat := min Config.segmentBytes (c - Config.segmentBytes * i)

/-- CODED SEGMENT `i` of a face, carrying `data` (R20, R159). -/
def segmentRecord (r : ItemRecord) (f : FaceRecord) (i : Nat) (data : List Byte) : Record :=
  madeRecord 0x21 (byteOf r.stream.val) 0
    (toBE 4 r.seq.toNat ++ [sideByte f.side, byteOfBool (i + 1 = segmentCount f.codedBytes), byteOf i, 0] ++ data)

/-- The number of slots in FREE (R59). -/
def freeSlots (f : Fmc) : Nat := f.slots.count .free

/-- The number of unused entries of the item table (R26). -/
def freeItems (k : Stk) : Nat := k.items.count none

/-- The report of STATUS QUERY, 56 bytes (R174). -/
def statusReport (s : State) : List Byte :=
  [partByte s.flm.part, (s.flm.latch.map causeByte).getD 0, quiesceByte s.dru.quiesce, byteOf s.dru.owed.length,
   byteOf s.sus.working.station, monitorByte s.ilu.monitor.state] ++
    toBE 4 s.ilu.monitor.count.toNat ++
    [byteOf (freeSlots s.fmc), byteOf (freeItems s.stk), byteOf s.fmc.ready.length, byteOfBool s.fmc.pacing,
     byteOf s.dru.duty, byteOf s.fmc.mark] ++
    toBE 4 s.ilu.headerFaults.toNat ++ toBE 4 s.ilu.payloadFaults.toNat ++ toBE 4 s.ilu.unknownKinds.toNat ++
    toBE 4 s.elu.overflow.toNat ++ toBE 4 s.stk.orphans.toNat ++ toBE 4 s.stk.accepted.toNat ++ toBE 4 s.stk.lost.toNat ++
    toBE 4 s.fmc.corrected.toNat ++ toBE 4 s.fmc.uncorrectable.toNat ++ toBE 4 s.dru.lost.toNat

/-- The settings of READ START-UP, 11 bytes; a blank store is reported by its blank values (R193). -/
def startUpReport (u : Sus) : List Byte :=
  byteOfBool (readStore u.cells).isSome :: settingsBytes ((readStore u.cells).getD Settings.blank) ++
    settingsBytes u.working

end Sys2Proof.Machine
end

