-- ==== Sys2Proof/Machine/Rules.lean ====
section
/-! DEFINITION. Quality rules and item outcomes (Chapter 8). -/

namespace Sys2Proof.Machine

/-- The side filter admits the side (R134). -/
def sideAdmits : SideFilter → Side → Bool
  | .any, _ => true
  | .front, .front => true
  | .back, .back => true
  | .front, .back => false
  | .back, .front => false

/-- The value a measure names, for every measure but FLAGS_ANY (R135). -/
def measureValue (f : FaceRecord) : Measure → Nat
  | .blackRatio => f.blackRatio
  | .meanGrey => f.meanGrey
  | .outWidth => f.outWidth
  | .outHeight => f.outHeight
  | .codedBytes => f.codedBytes
  | .attempts => f.attempts
  | .captureDpi => f.captureDpi
  | .flagsAny => 0

/-- A comparison, the measure on the left (R136). -/
def compareValue (c : Comparison) (m v : Nat) : Bool :=
  match c with
  | .less => decide (m < v)
  | .lessOrEqual => decide (m ≤ v)
  | .equal => decide (m = v)
  | .notEqual => decide (m ≠ v)
  | .greaterOrEqual => decide (v ≤ m)
  | .greater => decide (v < m)

/-- Entry `n` takes part in the evaluation (R134). -/
def takesPart (f : FaceRecord) (mask : BitVec 32) (n : Nat) (r : Rule) : Bool :=
  r.valid && mask.getLsbD n && sideAdmits r.side f.side

/-- The test of an entry: FLAGS_ANY looks at the working word (R136, R137). -/
def ruleTest (f : FaceRecord) (working : BitVec 32) (r : Rule) : Bool :=
  match r.measure with
  | .flagsAny => anyFlag working r.value
  | m => compareValue r.comparison (measureValue f m) r.value.toNat

/-- The needs flag is absent or set in the working word (R138). -/
def needsMet (working : BitVec 32) : Option (Fin 16) → Bool
  | none => true
  | some q => anyFlag working (flagQ q)

/-- An entry that takes part matches (R138). -/
def ruleMatches (f : FaceRecord) (working : BitVec 32) (r : Rule) : Bool :=
  ruleTest f working r && needsMet working r.needs

/-- The evaluation so far: the working word and the actions of the matches (R133, R138). -/
structure Evaluation where
  working : BitVec 32
  actions : List RuleAction
deriving DecidableEq, Repr

/-- Takes one entry (R134, R138). -/
def takeEntry (f : FaceRecord) (mask : BitVec 32) (ev : Evaluation) (e : Nat × Rule) : Evaluation :=
  if takesPart f mask e.1 e.2 && ruleMatches f ev.working e.2 then
    { working := ev.working ||| flagQ e.2.sets, actions := ev.actions ++ [e.2.action] }
  else ev

/-- The rule table with the entries numbered. -/
def numberedRules (rules : Vector Rule 32) : List (Nat × Rule) :=
  (List.finRange 32).map (fun n => (n.val, rules[n]))

/-- Entries 0 to 31 in increasing order, each once (R134). -/
def takeEntries (rules : Vector Rule 32) (f : FaceRecord) (mask working : BitVec 32) : Evaluation :=
  (numberedRules rules).foldl (takeEntry f mask) { working := working, actions := [] }

/-- The rule result from the recorded actions: the flags and disposition to be written (R139). -/
def ruleResult (disposition : Disposition) (ev : Evaluation) : BitVec 32 × Disposition :=
  if RuleAction.withhold ∈ ev.actions then (ev.working, .withheldRule)
  else if RuleAction.suspect ∈ ev.actions then (ev.working ||| flagSuspect, disposition)
  else (ev.working, disposition)

/-- A face kept for release (R144). -/
def isKept (f : FaceRecord) : Bool := f.disposition = some .coded || f.disposition = some .codedOver

/-- A disposition that makes an item PARTIAL (R144). -/
def isLost (f : FaceRecord) : Bool :=
  f.disposition = some .withheldOver || f.disposition = some .withheldRule || f.disposition = some .refusedGeometry ||
    f.disposition = some .refusedNoSlot || f.disposition = some .abandoned

/-- The outcome of a CLOSED item, the first line of the table of R144 whose condition holds. -/
def itemOutcome (r : ItemRecord) : ItemOutcome :=
  if !(r.faces.any isKept) then .failed
  else if r.faces.any isLost || r.flags &&& itemMissingFace != 0 then .partialOutcome
  else if r.faces.any (fun f => anyFlag f.flags (flagSuspect ||| flagOverCeiling)) then .suspect
  else .accepted

end Sys2Proof.Machine
end

