-- ==== Sys2Proof/Machine/Scaling.lean ====
section
/-! DEFINITION. The arithmetic of the Scaling Unit: step, output size, horizontal and vertical averaging, tone mapping,
mean grey (Chapter 4). -/

namespace Sys2Proof.Machine

/-- The step of a face from its capture dpi `inn` and its profile's output dpi `out`, rounded half up (R67). -/
def scaleStep (inn out : Nat) : Nat := if inn ≤ out then 256 else (512 * inn + out) / (2 * out)

/-- An output size from a kept size (R68). -/
def outputSize (kept step : Nat) : Nat := kept * 256 / step

/-- Length of the overlap of input sample `i` with output pixel `j`, in 1/256 of an input pixel (R69). -/
def overlap (i j step : Nat) : Nat := min (256 * i + 256) (j * step + step) - max (256 * i) (j * step)

/-- Horizontal value `j` of a row. A span meets at most five samples, the first of them number `j * step / 256` (R69). -/
def horizontalValue (step : Nat) (row : List Byte) (j : Nat) : Nat :=
  let first := j * step / 256
  (((List.range 5).map (fun t => overlap (first + t) j step * (row.getD (first + t) 0).toNat)).sum + step / 2) / step

/-- The horizontal pass of one input row (R69). -/
def horizontalPass (step width : Nat) (row : List Byte) : List Nat := (List.range width).map (horizontalValue step row)

/-- The samples of an input row: a white row is the kept width of 255 (R37, R73). -/
def rowSamples (keptWidth : Nat) : InputRow → List Byte
  | .samples row => row
  | .white => List.replicate keptWidth 255

/-- Entry `v` of a tone curve slot; slot 0 is the identity curve (R74, R75). -/
def toneEntry (d : Dru) (toneSlot v : Nat) : Byte :=
  if toneSlot = 0 then byteOf v
  else if h : toneSlot - 1 < 7 then ((d.toneSlots[toneSlot - 1]).curve).getD v 0
  else byteOf v

/-- The sum of a row's grey values (R76). -/
def greyTotal (row : List Byte) : Nat := (row.map BitVec.toNat).sum

/-- The next input row of this context completes an output row (R70). -/
def finishesRow (c : ScaleCtx) : Bool :=
  decide (c.lineRow < c.outHeight) && decide ((c.lineRow + 1) * c.step ≤ 256 * (c.rowsTaken + 1))

/-- A finished output row: the column sums rounded and mapped through the tone curve (R71, R74). -/
def finishedRow (d : Dru) (c : ScaleCtx) (sums : List Nat) : List Byte :=
  sums.map (fun a => toneEntry d c.toneSlot ((a + c.step / 2) / c.step))

/-- Takes one input row into the accumulator line. The second component is the output row written at once, with its
number: a finished row below the last (R70, R71, R76). -/
def takeInputRow (d : Dru) (c : ScaleCtx) (row : InputRow) : ScaleCtx × Option (Nat × List Byte) :=
  let h := horizontalPass c.step c.outWidth (rowSamples c.keptWidth row)
  let ends := 256 * (c.rowsTaken + 1)
  let bound := (c.lineRow + 1) * c.step
  if c.outHeight ≤ c.lineRow then ({ c with rowsTaken := c.rowsTaken + 1 }, none)
  else if ends < bound then
    ({ c with rowsTaken := c.rowsTaken + 1, line := List.zipWith (fun a v => a + 256 * v) c.line h }, none)
  else
    let sums := List.zipWith (fun a v => a + (bound - 256 * c.rowsTaken) * v) c.line h
    let out := finishedRow d c sums
    if c.lineRow + 1 < c.outHeight then
      ({ c with rowsTaken := c.rowsTaken + 1, lineRow := c.lineRow + 1, line := h.map (fun v => (ends - bound) * v),
                greySum := c.greySum + greyTotal out }, some (c.lineRow, out))
    else
      ({ c with rowsTaken := c.rowsTaken + 1, lineRow := c.lineRow + 1, line := sums, lastRow := some out }, none)

/-- A scaling context at its binding (R66 to R68). -/
def bindContext (captureDpi keptWidth keptHeight outDpi toneSlot : Nat) : ScaleCtx :=
  let step := scaleStep captureDpi outDpi
  let w := outputSize keptWidth step
  { step := step, outWidth := w, outHeight := outputSize keptHeight step, keptWidth := keptWidth,
    keptHeight := keptHeight, toneSlot := toneSlot, rowsTaken := 0, lineRow := 0, line := List.replicate w 0,
    lastRow := none, greySum := 0, waiting := [], inputEnded := false }

/-- The mean grey with the held last row added (R76). -/
def meanGreyOf (c : ScaleCtx) (last : List Byte) : Nat :=
  (c.greySum + greyTotal last) / (c.outWidth * c.outHeight)

end Sys2Proof.Machine
end

