-- ==== Sys2Proof/Machine/Ops.lean ====
section
/-! DEFINITION. The named operations the commands share: notices, the fault latch, face memory reads and slots, the
ingress hold line, the taking and leaving of faces by the Conversion Engine, item records, release, and the egress link. -/

namespace Sys2Proof.Machine

/-! ## Notices -/

/-- Makes a notice: it joins the tail of the notice queue, or is lost and counted when 16 are held (R171). In BYPASS the
Directive Unit makes none and counts none (R194). -/
def pushNotice (n : Notice) (s : State) : State :=
  if s.flm.part = .bypass then s
  else if s.dru.notices.length < Config.noticeCapacity then
    { s with dru := { s.dru with notices := s.dru.notices ++ [n] } }
  else { s with dru := { s.dru with lost := satInc s.dru.lost } }

/-- Makes notices one after another. -/
def pushNotices (ns : List Notice) (s : State) : State := ns.foldl (fun s n => pushNotice n s) s

/-! ## Slots and scrubbing -/

/-- A slot state that a face holds (R48). -/
def isHeldSlot : SlotState → Bool
  | .filling => true
  | .ready => true
  | .converting => true
  | .coded => true
  | .free => false
  | .scrubbing => false

/-- The slots held by faces, in slot-number order. -/
def heldSlots (f : Fmc) : List Slot := (List.finRange 48).filter (fun k => isHeldSlot f.slots[k])

/-- Puts a slot in a state. -/
def setSlot (k : Slot) (x : SlotState) (s : State) : State :=
  { s with fmc := { s.fmc with slots := s.fmc.slots.set k x } }

/-- A slot enters SCRUBBING and joins the tail of the scrub order (R54). -/
def toScrub (k : Slot) (s : State) : State :=
  { s with fmc := { s.fmc with slots := s.fmc.slots.set k .scrubbing, scrubOrder := s.fmc.scrubOrder ++ [k] } }

/-- Steps 1 and 2 of R57: the ready queue is emptied and every held slot goes to SCRUBBING, in slot-number order behind
the slots already there. Slots FREE or in SCRUBBING stay as they are. -/
def discardSlots (f : Fmc) : Fmc :=
  { f with
    slots := Vector.ofFn (fun k : Fin 48 => if isHeldSlot f.slots[k] then .scrubbing else f.slots[k])
    ready := []
    scrubOrder := f.scrubOrder ++ heldSlots f }

/-- The lowest-numbered FREE slot (R49). -/
def lowestFreeSlot (f : Fmc) : Option Slot := (List.finRange 48).find? (fun k => f.slots[k] = .free)

/-- Evaluates the automatic pacing flag, in OPERATING (R62). -/
def evalPacing (s : State) : State :=
  if s.flm.part = .operating then
    let flag := if s.fmc.pacing then decide (freeSlots s.fmc < s.fmc.mark + 4) else decide (freeSlots s.fmc ≤ s.fmc.mark)
    { s with fmc := { s.fmc with pacing := flag } }
  else s

/-! ## The ingress hold line -/

/-- The effective pacing duty, in eighths (R64). -/
def effectiveDuty (s : State) : Nat := if s.fmc.pacing then 4 else s.dru.duty

/-- The continuous causes that count in OPERATING (R60). -/
def continuousCause (s : State) : Bool :=
  decide (freeSlots s.fmc ≤ 2) || decide (freeItems s.stk ≤ 2) || decide (56 ≤ s.elu.fifo.length)

/-- The level of the ingress hold line. The line holds no state of its own: it follows these causes at every moment (R60,
R61, R64, R196). -/
def ingressHoldLine (s : State) : Bool :=
  match s.flm.part with
  | .held => true
  | .starting => decide (56 ≤ s.elu.fifo.length)
  | .bypass => decide (56 ≤ s.elu.fifo.length)
  | .operating => continuousCause s || decide (s.ilu.eighth.val < effectiveDuty s)

/-! ## Item and face records -/

/-- The item record at an entry of the item table. -/
def itemAt (s : State) (ix : ItemIx) : Option ItemRecord := s.stk.items[ix]

/-- A face record by its item and its place in the face list. -/
def faceAt (s : State) (ix : ItemIx) (n : Nat) : Option FaceRecord :=
  match itemAt s ix with
  | some r => r.faces[n]?
  | none => none

/-- Changes an item record. -/
def modItem (ix : ItemIx) (g : ItemRecord → ItemRecord) (s : State) : State :=
  { s with stk := { s.stk with items := s.stk.items.set ix ((s.stk.items[ix]).map g) } }

/-- Changes a face record. -/
def modFace (ix : ItemIx) (n : Nat) (g : FaceRecord → FaceRecord) (s : State) : State :=
  modItem ix (fun r => { r with faces := r.faces.modify n g }) s

/-- The face that holds a slot: its item and its place in the face list. -/
def faceHolding (s : State) (k : Slot) : Option (ItemIx × Nat) :=
  (List.finRange 32).findSome? (fun ix : ItemIx =>
    match itemAt s ix with
    | some r => (r.faces.findIdx? (fun f => f.slot = some k)).map (fun n => (ix, n))
    | none => none)

/-- Changes a stream context. -/
def setContext (st : Stream) (c : StreamCtx) (s : State) : State :=
  { s with stk := { s.stk with contexts := s.stk.contexts.set st c } }

/-- A pending role is applied: it becomes the role, is removed, and a ROLE APPLIED notice carries its tag (R24). -/
def applyPending (st : Stream) (s : State) : State :=
  match (s.stk.map[st]).pending with
  | none => s
  | some (role, tag) =>
    pushNotice (eventNotice .roleApplied .done tag [byteOf st.val, roleByte role])
      { s with stk := { s.stk with map := s.stk.map.set st { role := role, pending := none } } }

/-! ## The egress link: what every part state shares -/

/-- The first pass-through entry not in use (log entry 9). -/
def freePassEntry (e : Elu) : PassIx :=
  ((List.finRange 64).find? (fun x => e.fifo.all (fun p => p.entry != x))).getD 0

/-- The bytes of a pass-through entry's record, as they stand in the pass-through region (R17). -/
def passBytes (s : State) (p : PassEntry) : List Byte := s.fmc.mem.readBytes (passEntryBase p.entry) p.length

/-- Grants the pass-through FIFO: its head record starts, and stays counted as held until its sending ends (R15, R17). -/
def grantPass (s : State) : State :=
  match s.elu.fifo with
  | [] => s
  | p :: _ =>
    { s with elu := { s.elu with position := .passThrough, link := .sending .passThrough (passBytes s p) } }

/-- At a record boundary in BYPASS: nothing while the hold input is asserted; the FAULT notice first, out of the round
robin; then the pass-through FIFO; else the link lies between records (R18, R206, R207). -/
def bypassBoundary (s : State) : State :=
  if s.elu.holdInput then s
  else
    match s.dru.notices with
    | n :: ns =>
      { s with
        dru := { s.dru with notices := ns }
        elu := { s.elu with link := .sending .notices (recordBytes (noticeRecord s.sus.working.station n)) } }
    | [] => grantPass s

/-- Lets a link that lies between records in BYPASS start what has become ready (R15, R207). -/
def wakeLink (s : State) : State :=
  if s.flm.part = .bypass ∧ s.elu.link = .between then bypassBoundary s else s

/-- Offers a record to the pass-through FIFO: it joins at the tail, its bytes written to a pass-through entry, or is
dropped and counted when 64 are held (R17). DESIGN CHOICE (log entry 29): where the record ends inside a word, the rest of that
word keeps its bytes, and the word gets fresh check bits. -/
def offerPass (r : Record) (s : State) : State :=
  if s.elu.fifo.length < Config.passCapacity then
    let e := freePassEntry s.elu
    let bytes := recordBytes r
    wakeLink
      { s with
        fmc := { s.fmc with mem := s.fmc.mem.write (passEntryBase e) bytes }
        elu := { s.elu with fifo := s.elu.fifo ++ [{ entry := e, length := bytes.length }] } }
  else { s with elu := { s.elu with overflow := satInc s.elu.overflow } }

/-! ## The fault latch -/

/-- A fatal fault is reported to the Fault Monitor. The first one, in STARTING or OPERATING, is latched: the part enters
BYPASS and every block drops its work; the activity timer stops and the monitor discards its partial trial or block, keeping
its state and count; the notice queue then holds the FAULT notice alone. A later one changes nothing (R12, R22, R25, R58,
R80, R97, R165, R194, R205, R206, R208). DESIGN CHOICE (log entry 28): the monitor's predictor keeps its value. -/
def latch (cause : FaultCause) (s : State) : State :=
  if s.flm.latch = none ∧ (s.flm.part = .starting ∨ s.flm.part = .operating) then
    wakeLink
      { s with
        flm := { part := .bypass, latch := some cause }
        ilu := { s.ilu with
                 activityTimer := false
                 monitor := { s.ilu.monitor with position := 0, mismatches := 0 } }
        stk := { s.stk with
                 map := Vector.ofFn (fun i : Fin 16 => { role := (s.stk.map[i]).role, pending := none })
                 contexts := Vector.replicate 16 StreamCtx.idle
                 items := Vector.replicate 32 none }
        scu := Vector.replicate 48 none
        fmc := { discardSlots s.fmc with pacing := false, verify := none }
        cnv := none
        rel := { s.rel with queues := Vector.replicate 16 [], release := none }
        dru := { s.dru with
                 notices := [eventNotice .fault .done 0 [causeByte cause]]
                 quiesce := .running
                 owed := [] } }
  else s

/-- The part has stopped working on items since `before`: a fault has been latched in between. -/
def latchedSince (before s : State) : Bool := s.flm.latch.isSome && before.flm.latch.isNone

/-! ## Reading face memory -/

/-- A result of reading a word moves the counts and the limit tally, and the uncorrectable one that brings the tally to 16
reports MEMORY_LIMIT (R46, R47). -/
def countResult (r : ReadResult) (s : State) : State :=
  match r with
  | .clean => s
  | .corrected => { s with fmc := { s.fmc with corrected := satInc s.fmc.corrected } }
  | .uncorrectable =>
    let tally := satInc s.fmc.tally
    let s' := { s with fmc := { s.fmc with uncorrectable := satInc s.fmc.uncorrectable, tally := tally } }
    if tally.toNat = Config.memoryLimit then latch .memoryLimit s' else s'

/-- Reads word `w`: the damage met is kept, and the result counts (R46, R47). -/
def readWord (w : Nat) (now : ReadResult) (s : State) : State × ReadResult :=
  let r := s.fmc.mem.readResult w now
  (countResult r { s with fmc := { s.fmc with mem := s.fmc.mem.noteDamage w r } }, r)

/-- Words from `w` on that were requested before a latch and arrive after it: they count and are not used. `reads` are the
reports of those requested (R97, log entry 17). -/
def lateReads (w : Nat) : List ReadResult → State → State
  | [], s => s
  | r :: rest, s => lateReads (w + 1) rest (readWord w r s).1

/-- Reads `n` words from word `w` on, the devices reporting `reads` for them in order (a word with no report is clean).
The second component says which words were uncorrectable. At a read that latches a fault the work is over: of the words
after it, those that have a report still count (R97). -/
def readWords : Nat → Nat → List ReadResult → State → State × List Bool
  | 0, _, _, s => (s, [])
  | n + 1, w, reads, s =>
    let one := readWord w (reads.headD .clean) s
    let bad := decide (one.2 = .uncorrectable)
    if latchedSince s one.1 then (lateReads (w + 1) (reads.tail.take n) one.1, [bad])
    else
      let rest := readWords n (w + 1) reads.tail one.1
      (rest.1, bad :: rest.2)

/-- Replaces the bytes of uncorrectable words by `v`: byte `i` belongs to word `i / 8` (R46, R85, R159). -/
def substituteBad (v : Byte) (bad : List Bool) (bytes : List Byte) : List Byte :=
  bytes.mapIdx (fun i b => if bad.getD (i / 8) false then v else b)

/-- A write of output grey row `k` of a slot; not performed unless the slot is FILLING (R45, R48, R74). -/
def writeGrey (slot : Slot) (k : Nat) (row : List Byte) (s : State) : State :=
  if s.fmc.slots[slot] = .filling then
    { s with fmc := { s.fmc with mem := s.fmc.mem.write (greyBase slot + k * Config.rowStride) row } }
  else s

/-- A write of coded data from word `w` of a slot's coded area; not performed unless the slot is CONVERTING and the data
lies within the area (R48, R113). -/
def writeCoded (slot : Slot) (w : Nat) (bytes : List Byte) (s : State) : State :=
  if s.fmc.slots[slot] = .converting ∧ 8 * w + bytes.length ≤ Config.codedArea then
    { s with fmc := { s.fmc with mem := s.fmc.mem.write (codedBase slot + 8 * w) bytes } }
  else s

/-! ## Freeing item records -/

/-- The item's release has completed: its queue entry carries the released mark (R148, R161). -/
def isReleased (s : State) (st : Stream) (ix : ItemIx) : Bool := s.rel.queues[st].contains (.item ix true)

/-- The QUIESCE GRANT notices for tags, oldest first (R185, R186). -/
def grantNotices (status : Status) (tags : List Tag) : List Notice :=
  tags.map (fun t => eventNotice .quiesceGrant status t [])

/-- In QUIESCING, an empty item table enters QUIESCED and grants every owed tag (R185). -/
def checkQuiesced (s : State) : State :=
  if s.dru.quiesce = .quiescing ∧ freeItems s.stk = 32 then
    pushNotices (grantNotices .done s.dru.owed) { s with dru := { s.dru with quiesce := .quiesced, owed := [] } }
  else s

/-- Frees an item record if its release has completed and no face of it holds a slot; its queue entry leaves (R26, R148,
R161). -/
def tryFree (ix : ItemIx) (s : State) : State :=
  match itemAt s ix with
  | none => s
  | some r =>
    if isReleased s r.stream ix ∧ r.faces.all (fun f => f.slot.isNone) then
      checkQuiesced
        { s with
          stk := { s.stk with items := s.stk.items.set ix none }
          rel := { s.rel with
                   queues := s.rel.queues.set r.stream
                     (s.rel.queues[r.stream].filter (fun e => e != .item ix true)) } }
    else s

/-! ## The Conversion Engine takes and leaves faces -/

/-- The work state at the start of attempt `a` (R83, R84, R105, R119). -/
def startAttempt (a : Nat) (w : Work) : Work :=
  { w with attempt := a, k := attemptK w.params a, l := attemptL w.params a, limit := attemptLimit w.params a,
           nextRow := 0, background := List.replicate w.width 4080, window := [], released := 0, black := 0,
           coder := Coder.fresh, phase := .rows }

/-- The work state at the taking of a face (R82). -/
def takenWork (ix : ItemIx) (n : Nat) (slot : Slot) (f : FaceRecord) (p : Profile) : Work :=
  startAttempt 0
    { item := ix, face := n, slot := slot, width := f.outWidth, height := f.outHeight, params := p, attempt := 0, k := 0,
      l := 0, limit := 0, nextRow := 0, background := [], window := [], released := 0, black := 0, abandonMark := false,
      coder := Coder.fresh, phase := .rows }

/-- The idle Conversion Engine takes the head of the ready queue; a parity error in its read of the item record latches
TABLE_PARITY instead (R51, R82, R204). -/
def cnvTake (parity : Option ParityRead) (s : State) : State :=
  match s.cnv, s.fmc.ready with
  | none, k :: rest =>
    if parity = some .converter then latch .tableParity s
    else
      match faceHolding s k with
      | none => s
      | some (ix, n) =>
        match itemAt s ix, faceAt s ix n with
        | some r, some f =>
          let s := modFace ix n (fun f => { f with state := .converting }) s
          { s with
            fmc := { s.fmc with slots := s.fmc.slots.set k .converting, ready := rest }
            cnv := some (takenWork ix n k f r.profile) }
        | _, _ => s
  | _, _ => s

/-- The Conversion Engine stops at a row boundary with its abandon mark set: the slot goes to SCRUBBING, the face ceases to
hold it, the engine becomes IDLE, the item record is freed if it may be, and the next face is taken (R52, R95). -/
def cnvStop (parity : Option ParityRead) (w : Work) (s : State) : State :=
  let s := modFace w.item w.face (fun f => { f with slot := none }) (toScrub w.slot s)
  cnvTake parity (tryFree w.item { s with cnv := none })

/-! ## Release -/

/-- The records of one face of a release: head and segments for a kept face, none for another (R155). -/
def faceRecords (n : Nat) (f : FaceRecord) : List ReleaseRec :=
  if isKept f then .head n :: (List.range (segmentCount f.codedBytes)).map (.segment n) else []

/-- The records of a release in order (R155). -/
def releasePlan (r : ItemRecord) (markers : List ItemIx) : List ReleaseRec :=
  markers.map .marker ++
    (if r.outcome = some .cancelled ∨ r.outcome = some .stalled then []
     else (r.faces.mapIdx faceRecords).flatten) ++ [.result]

/-- Composes a record of the release of `ix` as the records stand; a segment is composed by its own step (R156 to R160). -/
def composeRecord (s : State) (ix : ItemIx) : ReleaseRec → Option Record
  | .marker y => (itemAt s y).map markerRecord
  | .head n =>
    match itemAt s ix, faceAt s ix n with
    | some r, some f => some (headRecord r f)
    | _, _ => none
  | .segment _ _ => none
  | .result => (itemAt s ix).map resultRecord

/-- The releasable item of a queue with the items its release overtakes, in queue order; `over` are the undecided items
passed so far (R151, R152). -/
def releasableFrom (s : State) (passed : List ItemIx) : List QueueEntry → Option (ItemIx × List ItemIx)
  | [] => none
  | .fence _ :: _ => none
  | .item _ true :: rest => releasableFrom s passed rest
  | .item ix false :: rest =>
    match itemAt s ix with
    | none => none
    | some r =>
      match r.state with
      | .decided => some (ix, passed)
      | .releasing => none
      | _ => if r.overtaken < r.profile.d then releasableFrom s (passed ++ [ix]) rest else none

/-- The streams in the order the release arbiter considers them (R153). -/
def arbiterOrder (position : Stream) : List Stream :=
  (List.finRange 16).map (fun k : Fin 16 => position + 1 + k)

/-- The arbiter's choice: the first stream with a releasable item, that item, and the items it overtakes (R153). -/
def chooseRelease (s : State) : Option (Stream × ItemIx × List ItemIx) :=
  (arbiterOrder s.rel.position).findSome? (fun st =>
    (releasableFrom s [] s.rel.queues[st]).map (fun c => (st, c)))

/-- The items among these that are owed a PENDING marker (R154). -/
def owedMarkers (s : State) (passed : List ItemIx) : List ItemIx :=
  passed.filter (fun y => match itemAt s y with
    | some r => !r.pendingSent
    | none => false)

/-- An overtaken item: its count rises, DEFERRED is set, and its marker is sent or owed (R154). -/
def ItemRecord.overtake (r : ItemRecord) : ItemRecord :=
  { (r.setFlags itemDeferred) with overtaken := r.overtaken + 1, pendingSent := true }

/-- Begins the release of `ix` on stream `st`: the deferral state is written and the first record is offered (R153 to
R155). -/
def beginRelease (st : Stream) (ix : ItemIx) (passed : List ItemIx) (s : State) : State :=
  let markers := owedMarkers s passed
  let s := passed.foldl (fun s y => modItem y ItemRecord.overtake s) s
  let s := modItem ix (fun r => { (r.setFlags (itemFlagIf (!passed.isEmpty) itemOutOfOrder)) with state := .releasing }) s
  match itemAt s ix with
  | none => s
  | some r =>
    match releasePlan r markers with
    | [] => s
    | c :: rest =>
      { s with rel := { s.rel with position := st
                                   release := some { item := ix, current := c, offered := composeRecord s ix c, rest := rest } } }

/-- To sort this queue the Release Engine reads an item record: an unspent item entry stands in it with no fence marker
ahead (R151). -/
def readsQueue : List QueueEntry → Bool
  | [] => false
  | .fence _ :: _ => false
  | .item _ true :: rest => readsQueue rest
  | .item _ false :: _ => true

/-- The choice reads an item record (R151, R153). -/
def choiceReads (s : State) : Bool := (List.finRange 16).any (fun st : Stream => readsQueue s.rel.queues[st])

/-- The idle Release Engine chooses and begins the next release, in OPERATING; a parity error in its read of an item
record latches TABLE_PARITY instead, whether or not an item would have been releasable (R148, R153, R204). -/
def relTry (parity : Option ParityRead) (s : State) : State :=
  if s.flm.part = .operating ∧ s.rel.release = none then
    if parity = some .release ∧ choiceReads s then latch .tableParity s
    else
      match chooseRelease s with
      | none => s
      | some (st, ix, passed) => beginRelease st ix passed s
  else s

/-- The queue after the fence markers that may pass have passed, with their tags, older first (R150). -/
def passableFences : List QueueEntry → List QueueEntry × List Tag
  | .item ix true :: rest => let p := passableFences rest; (.item ix true :: p.1, p.2)
  | .fence t :: rest => let p := passableFences rest; (p.1, t :: p.2)
  | q => (q, [])

/-- Passes the fence markers of a stream that have no unreleased entry ahead of them (R150). -/
def passFences (st : Stream) (s : State) : State :=
  let p := passableFences s.rel.queues[st]
  pushNotices (p.2.map (fun t => eventNotice .fencePassed .done t [byteOf st.val]))
    { s with rel := { s.rel with queues := s.rel.queues.set st p.1 } }

/-- The CODED slots held by faces of an item go to SCRUBBING in face-list order, and the faces cease to hold them (R53). -/
def scrubCodedSlots (ix : ItemIx) (s : State) : State :=
  match itemAt s ix with
  | none => s
  | some r =>
    let coded := fun (f : FaceRecord) => f.slot.filter (fun k => s.fmc.slots[k] = .coded)
    let s := (r.faces.filterMap coded).foldl (fun s k => toScrub k s) s
    modItem ix (fun r => { r with faces := r.faces.map (fun f => if (coded f).isSome then { f with slot := none } else f) }) s

/-- The completion of a release, at the grant of its final ITEM RESULT. A parity error in the Release Engine's read of the
item record latches TABLE_PARITY instead (R148, R161, R204). -/
def completeRelease (parity : Option ParityRead) (ix : ItemIx) (s : State) : State :=
  match itemAt s ix with
  | none => { s with rel := { s.rel with release := none } }
  | some r =>
    if parity = some .release then latch .tableParity s
    else
      let q := s.rel.queues[r.stream].map (fun e => if e = .item ix false then .item ix true else e)
      let s := { s with rel := { s.rel with queues := s.rel.queues.set r.stream q, release := none } }
      relTry parity (passFences r.stream (tryFree ix (scrubCodedSlots ix s)))

/-- After the grant of a record that is not the last: the next record of the release is composed and offered (R155). -/
def offerNext (parity : Option ParityRead) (x : Release) (s : State) : State :=
  match x.rest with
  | [] => s
  | c :: rest =>
    if parity = some .release then latch .tableParity s
    else
      { s with rel := { s.rel with
          release := some { item := x.item, current := c, offered := composeRecord s x.item c, rest := rest } } }

/-! ## Decisions -/

/-- The Release Engine reads an item record and decides the item where it is CLOSED and its faces are all FINAL. A parity error
in that read latches TABLE_PARITY instead (R143, R144, R148, R204). DESIGN CHOICE (log entry 4): it makes this read each time a
face settles or the item is closed, also where no decision follows, the item being OPEN or another face not FINAL. -/
def decideItem (parity : Option ParityRead) (ix : ItemIx) (s : State) : State :=
  match itemAt s ix with
  | none => s
  | some r =>
    if parity = some .release then latch .tableParity s
    else if r.state = .closed ∧ r.faces.all (fun f => f.state = .final) then
      modItem ix (fun r => { r with state := .decided, outcome := some (itemOutcome r) }) s
    else s

/-! ## The egress arbiter -/

/-- Starts a FILL; the mark-error request marks it and is cleared (R8, R9). -/
def startFill (s : State) : State :=
  let p := fillPayload s.elu.fillGen s.elu.markError
  { s with elu := { s.elu with fillGen := p.2, markError := false, link := .sending .fill (recordBytes (fillRecord p.1)) } }

/-- Grants the notice queue: the oldest notice leaves it and starts (R15, R171). -/
def grantNotice (s : State) : State :=
  match s.dru.notices with
  | [] => s
  | n :: ns =>
    { s with
      dru := { s.dru with notices := ns }
      elu := { s.elu with position := .notices,
                          link := .sending .notices (recordBytes (noticeRecord s.sus.working.station n)) } }

/-- Grants the Release Engine: the offered record starts; the grant of the final ITEM RESULT completes the release (R15,
R155, R161). -/
def grantRelease (parity : Option ParityRead) (s : State) : State :=
  match s.rel.release with
  | none => s
  | some x =>
    match x.offered with
    | none => s
    | some r =>
      let s := { s with elu := { s.elu with position := .release, link := .sending .release (recordBytes r) } }
      if x.current = .result then completeRelease parity x.item s else offerNext parity x s

/-- The requesters in the order the arbiter considers them (R15). -/
def requesterOrder : Requester → List Requester
  | .passThrough => [.notices, .release, .passThrough]
  | .notices => [.release, .passThrough, .notices]
  | .release => [.passThrough, .notices, .release]

/-- A requester has a record ready (R15). -/
def hasReady (s : State) : Requester → Bool
  | .passThrough => !s.elu.fifo.isEmpty
  | .notices => !s.dru.notices.isEmpty
  | .release => match s.rel.release with
    | some x => x.offered.isSome
    | none => false

/-- A record boundary: the arbiter grants the first requester with a record ready, or a FILL starts; while the hold input
is asserted only FILL starts. BYPASS has its own order (R15, R16, R18). -/
def egressBoundary (parity : Option ParityRead) (s : State) : State :=
  match s.flm.part with
  | .held => s
  | .bypass => bypassBoundary s
  | _ =>
    if s.elu.holdInput then startFill s
    else
      match (requesterOrder s.elu.position).find? (hasReady s) with
      | some .passThrough => grantPass s
      | some .notices => grantNotice s
      | some .release => grantRelease parity s
      | none => startFill s

/-! ## Records at the ingress -/

/-- Counts a header fault (R2, R7). -/
def countHeaderFault (s : State) : State :=
  { s with ilu := { s.ilu with headerFaults := satInc s.ilu.headerFaults } }

/-- Counts a payload fault (R3, R7). -/
def countPayloadFault (s : State) : State :=
  { s with ilu := { s.ilu with payloadFaults := satInc s.ilu.payloadFaults } }

/-- Counts an orphan (R44). -/
def countOrphan (s : State) : State := { s with stk := { s.stk with orphans := satInc s.stk.orphans } }

/-- The record being received ends (R1). -/
def endReceiving (s : State) : State := { s with ilu := { s.ilu with recordOpen := false } }

/-- An end-of-record character is discarded and counted nowhere: while the part is held in reset, and with no record open
(R1, R196). -/
def discardsArrival (s : State) : Bool := decide (s.flm.part = .held) || !s.ilu.recordOpen

/-- The end of the record being received: it arrives. A header fault is dropped and counted; any other record goes on to its
destination. With no record open the end-of-record character is discarded (R1, R2, R196). -/
def recordArrives (r : Record) (destination : State → State) (s : State) : State :=
  if discardsArrival s then s
  else if headerFaulty r then countHeaderFault (endReceiving s)
  else destination (endReceiving s)

/-- The destination of a raw record: in OPERATING the Stream Tracker when the stream's role is OWN, else passed (R4, R6). -/
def rawDestination (r : Record) (st : Stream) (consume : State → State) (s : State) : State :=
  if s.flm.part = .operating ∧ (s.stk.map[st]).role = .own then consume s else offerPass r s

end Sys2Proof.Machine
end

