-- ==== Sys2Proof/Machine/Link.lean ====
section
/-! DEFINITION. Commands of the ingress link that do not reach the Stream Tracker or the Directive Unit: framing, the link
qualification monitor and its timer, records that are passed, and the pacing eighth (Chapter 1, R61). -/

namespace Sys2Proof.Machine

/-- The monitor at the start of a new trial, or of the first block in SYNC, or in DOWN (R10 to R12). -/
def enterMonitor (x : MonitorState) (m : Monitor) : Monitor := { m with state := x, position := 0, mismatches := 0 }

/-- The monitor takes one bit in HUNT: 15 seed bits, discarded when all are zero, then 128 compared with the predictor,
which runs on its own outputs (R10). -/
def huntBit (m : Monitor) (b : Bool) : Monitor :=
  if m.position < 15 then
    let p := fillShift m.predictor b
    if m.position = 14 ∧ p = 0 then { m with predictor := p, position := 0 }
    else { m with predictor := p, position := m.position + 1 }
  else
    let expected := fillNext m.predictor
    let wrong := m.mismatches + (b ^^ expected).toNat
    let m' := { m with predictor := fillShift m.predictor expected, position := m.position + 1, mismatches := wrong }
    if m.position + 1 < 143 then m'
    else if wrong < 4 then enterMonitor .sync m'
    else enterMonitor .hunt m'

/-- The monitor takes one bit in SYNC: each mismatch counts, and a block of 128 bits with 12 or more returns it to HUNT
(R11). -/
def syncBit (m : Monitor) (b : Bool) : Monitor :=
  let expected := fillNext m.predictor
  let wrong := m.mismatches + (b ^^ expected).toNat
  let m' := { m with predictor := fillShift m.predictor expected, position := m.position + 1, mismatches := wrong,
                     count := if b = expected then m.count else satInc m.count }
  if m.position + 1 < 128 then m'
  else if 12 ≤ wrong then enterMonitor .hunt m'
  else enterMonitor .sync m'

/-- The monitor takes one bit; in DOWN it compares nothing (R10 to R12). -/
def monitorBit (m : Monitor) (b : Bool) : Monitor :=
  match m.state with
  | .hunt => huntBit m b
  | .sync => syncBit m b
  | .down => m

/-- Puts the monitor at `m`; with link notices on, a change of its state makes a LINK notice (R13). -/
def setMonitor (m : Monitor) (s : State) : State :=
  let old := s.ilu.monitor.state
  let s' := { s with ilu := { s.ilu with monitor := m } }
  if s.sus.working.linkNotices ∧ m.state ≠ old then
    pushNotice (eventNotice .link .done 0 ([monitorByte m.state, monitorByte old] ++ toBE 4 m.count.toNat)) s'
  else s'

/-- The monitor takes bits one after another (R10). -/
def monitorBits (bits : List Bool) (s : State) : State :=
  bits.foldl (fun s b => setMonitor (monitorBit s.ilu.monitor b) s) s

/-- START_OF_RECORD: an open record becomes a framing fault; a record opens; while STARTING or OPERATING the activity timer
restarts and a monitor in DOWN goes to HUNT (R1, R12). -/
def execStartOfRecord (s : State) : Host.Outcome State Fault Refusal :=
  .next <|
    if s.flm.part = .held then s
    else
      let s := if s.ilu.recordOpen then countHeaderFault s else s
      let s := { s with ilu := { s.ilu with recordOpen := true } }
      if s.flm.part = .bypass then s
      else
        let s := { s with ilu := { s.ilu with activityTimer := true } }
        if s.ilu.monitor.state = .down then setMonitor (enterMonitor .hunt s.ilu.monitor) s else s

/-- FRAMING_FAULT: the open record ends as a framing fault, dropped and counted as a header fault, whichever the cause; with
no record open the character is discarded and counted nowhere (R1, R2). -/
def execFramingFault (cause : FramingCause) (s : State) : Host.Outcome State Fault Refusal :=
  .next <|
    match cause with
    | .invalidCharacter | .idleCharacter | .tooLong =>
      if s.flm.part ≠ .held ∧ s.ilu.recordOpen then countHeaderFault (endReceiving s) else s

/-- ACTIVITY_TIMER_EXPIRY: 1 ms has passed without a start-of-record character and the monitor enters DOWN. A timer that is
not running does not expire (R12). -/
def execActivityTimerExpiry (s : State) : Host.Outcome State Fault Refusal :=
  .next <|
    if (s.flm.part = .starting ∨ s.flm.part = .operating) ∧ s.ilu.activityTimer then
      setMonitor (enterMonitor .down s.ilu.monitor) { s with ilu := { s.ilu with activityTimer := false } }
    else s

/-- FILL: its payload bits go to the monitor; in BYPASS it is passed instead (R4, R6, R10). -/
def execFill (target : Byte) (rec : Carried) (s : State) : Host.Outcome State Fault Refusal :=
  let r : Record := { kind := 0x00, target := target, body := rec }
  .next <| recordArrives r
    (fun s => if s.flm.part = .bypass then offerPass r s else monitorBits (bitsOf rec.payload) s) s

/-- Kind codes of the produced records (section 1.2). -/
def producedCode : ProducedKind → Byte
  | .codedHead => 0x20
  | .codedSegment => 0x21
  | .itemResult => 0x22

/-- PRODUCED_RECORD: passed whatever the role of its stream (R4, R6). -/
def execProducedRecord (kind : ProducedKind) (stream : Stream) (rec : Carried) (s : State) :
    Host.Outcome State Fault Refusal :=
  let r : Record := { kind := producedCode kind, target := byteOf stream.val, body := rec }
  .next <| recordArrives r (offerPass r) s

/-- NOTICE: passed (R4, R6). -/
def execNotice (station : Fin 32) (rec : Carried) (s : State) : Host.Outcome State Fault Refusal :=
  let r : Record := { kind := 0x31, target := byteOf station.val, body := rec }
  .next <| recordArrives r (offerPass r) s

/-- PACING_EIGHTH: the next eighth of the pacing period begins; the hold line follows (R61). -/
def execPacingEighth (s : State) : Host.Outcome State Fault Refusal :=
  .next <| if s.flm.part = .held then s else { s with ilu := { s.ilu with eighth := s.ilu.eighth + 1 } }

end Sys2Proof.Machine
end

