-- ==== Sys2Proof/Machine/Streams.lean ====
section
/-! DEFINITION. The raw records of owned streams and the stall timer: the Stream Tracker's commands (Chapter 2). -/

namespace Sys2Proof.Machine

/-! ## Shared by the raw records -/

/-- Hands rows to the scaling context of a slot, and with `ended` the report that no row follows (R38, R72, R78). -/
def handRows (k : Slot) (rows : List InputRow) (ended : Bool) (s : State) : State :=
  { s with scu := s.scu.set k ((s.scu[k]).map (fun c =>
      { c with waiting := c.waiting ++ rows, inputEnded := c.inputEnded || ended })) }

/-- Restarts a stall timer with its full period (R42). -/
def restartTimer (st : Stream) (ix : ItemIx) (s : State) : State :=
  match itemAt s ix with
  | none => s
  | some r => setContext st { s.stk.contexts[st] with timer := some r.profile.stallTimeout } s

/-- The current face, being filled, is completed short: white rows up to its kept height, SHORT set, rows received at the
kept height, and the context in ITEM (R35, R40). -/
def completeShort (st : Stream) (ix : ItemIx) (n : Nat) (s : State) : State :=
  match faceAt s ix n with
  | none => s
  | some f =>
    let c := s.stk.contexts[st]
    let s := modFace ix n (fun f => f.setFlags flagShort) s
    let s := match f.slot with
      | some k => handRows k (List.replicate (f.keptHeight - c.rows) .white) true s
      | none => s
    setContext st { c with state := .item, rows := f.keptHeight } s

/-- Closes the open item `ix` of a stream: a face being filled is completed short, MISSING_FACE and the given flags are set,
the item is CLOSED, the context IDLE, a pending role applied; the item is decided if it may be (R31, R40, R143). -/
def closeItem (st : Stream) (ix : ItemIx) (flags : BitVec 8) (parity : Option ParityRead) (s : State) : State :=
  let c := s.stk.contexts[st]
  let s := match c.state, c.face with
    | .face, some n => completeShort st ix n s
    | _, _ => s
  let s := modItem ix (fun r =>
    { (r.setFlags (itemFlagIf (decide (r.faces.length < r.declared)) itemMissingFace ||| flags)) with state := .closed }) s
  let s := setContext st { s.stk.contexts[st] with state := .idle, item := none, face := none, timer := none } s
  relTry parity (decideItem parity ix (applyPending st s))

/-- A raw record other than ITEM OPEN reaches the Stream Tracker: a parity error in the read of the context or of the open
item's record latches; in IDLE and DISCARD the record is an orphan; otherwise the stall timer restarts and the record is
handled (R25, R26, R42, R44, R204). -/
def withOpenItem (st : Stream) (parity : Option ParityRead) (handle : ItemIx → State → State) (s : State) : State :=
  if parity = some .context then latch .tableParity s
  else
    let c := s.stk.contexts[st]
    match c.state, c.item with
    | .item, some ix | .face, some ix =>
      if parity = some .record then latch .tableParity s else handle ix (restartTimer st ix s)
    | _, _ => countOrphan s

/-- The payload faults of the four raw kinds of fixed length: the check failed or the length is not the kind's (R3). -/
def payloadFaulty (rec : Carried) (len : Nat) : Bool := !checkOk rec || decide (rec.payload.length ≠ len)

/-! ## ITEM OPEN -/

/-- The lowest-numbered unused entry of the item table (R26). -/
def lowestFreeItem (k : Stk) : Option ItemIx := (List.finRange 32).find? (fun ix => (k.items[ix]).isNone)

/-- The profile an ITEM OPEN uses, and whether it was substituted (R29). -/
def chosenProfile (d : Dru) (number : Nat) : Profile × Bool :=
  if h : number < 32 then
    if (d.profiles[number]).valid then ((d.profiles[number]).fields, false) else ((d.profiles[0]).fields, true)
  else ((d.profiles[0]).fields, true)

/-- The declared face count after adjustment (R29). -/
def adjustedCount (n : Nat) : Nat := if n = 0 then 1 else if 2 < n then 2 else n

/-- A new item record (R29). -/
def newItem (st : Stream) (seq : BitVec 32) (declared : Nat) (p : Profile × Bool) : ItemRecord :=
  { stream := st, seq := seq, declared := adjustedCount declared, profile := p.1, state := .opened, faces := [],
    flags := itemFlagIf p.2 itemProfileSubst ||| itemFlagIf (decide (adjustedCount declared ≠ declared)) itemCountAdjusted,
    outcome := none, overtaken := 0, pendingSent := false }

/-- A refused ITEM OPEN: the context goes to DISCARD, an ITEM LOST notice carries the cause, the items-lost count rises
(R30, R173). The rows received stay as they were (DESIGN CHOICE, log entry 25). -/
def refuseItem (st : Stream) (seq : BitVec 32) (cause : Byte) (s : State) : State :=
  let s := setContext st { s.stk.contexts[st] with state := .discard, item := none, face := none, timer := none } s
  pushNotice (eventNotice .itemLost .done 0 ([byteOf st.val] ++ toBE 4 seq.toNat ++ [cause]))
    { s with stk := { s.stk with lost := satInc s.stk.lost } }

/-- An ITEM OPEN in IDLE or DISCARD opens an item or is refused (R29, R30). -/
def openOrRefuse (st : Stream) (seq : BitVec 32) (declared number : Nat) (parity : Option ParityRead) (s : State) : State :=
  if s.dru.quiesce ≠ .running then refuseItem st seq 1 s
  else
    match lowestFreeItem s.stk with
    | none => refuseItem st seq 0 s
    | some ix =>
      if parity = some .entry then latch .tableParity s
      else
        let r := newItem st seq declared (chosenProfile s.dru number)
        let s := { s with
          stk := { s.stk with items := s.stk.items.set ix (some r), accepted := satInc s.stk.accepted }
          rel := { s.rel with queues := s.rel.queues.set st (s.rel.queues[st] ++ [.item ix false]) } }
        setContext st { state := .item, item := some ix, face := none, rows := 0, timer := some r.profile.stallTimeout } s

/-- An ITEM OPEN that reaches the Stream Tracker. In ITEM or FACE it closes the open item first; the role then in force
decides whether it is passed on or handled here (R24, R29 to R31). A fault latched meanwhile ends the step. -/
def itemOpenTaken (r : Record) (st : Stream) (seq : BitVec 32) (declared number : Nat) (parity : Option ParityRead)
    (s : State) : State :=
  if parity = some .context then latch .tableParity s
  else
    let c := s.stk.contexts[st]
    match c.state, c.item with
    | .item, some ix | .face, some ix =>
      if parity = some .record then latch .tableParity s
      else
        let s' := closeItem st ix itemImplicitClose parity s
        if latchedSince s s' then s'
        else if (s'.stk.map[st]).role = .pass then offerPass r s'
        else openOrRefuse st seq declared number parity s'
    | _, _ => openOrRefuse st seq declared number parity s

/-- ITEM_OPEN (R3, R4, R6, R19, R29 to R31). -/
def execItemOpen (stream : Stream) (rec : Carried) (parity : Option ParityRead) (s : State) :
    Host.Outcome State Fault Refusal :=
  let r : Record := { kind := 0x10, target := byteOf stream.val, body := rec }
  .next <| recordArrives r
    (rawDestination r stream (fun s =>
      if payloadFaulty rec 6 then countPayloadFault s
      else itemOpenTaken r stream (BitVec.ofNat 32 (param rec.payload 0 4)) (param rec.payload 4 1)
        (param rec.payload 5 1) parity s)) s

/-! ## FACE OPEN -/

/-- A capture dpi after clamping (R33). -/
def clampedDpi (dpi : Nat) : Nat := if dpi < 100 then 100 else if 400 < dpi then 400 else dpi

/-- A new face record with its kept size; no slot yet (R28, R33). -/
def newFace (side : Side) (dpi width height keptWidth keptHeight : Nat) : FaceRecord :=
  { side := side, captureDpi := clampedDpi dpi, declWidth := width, declHeight := height, keptWidth := keptWidth,
    keptHeight := keptHeight, outWidth := 0, outHeight := 0, slot := none, state := .filling, meanGrey := 0,
    blackCount := 0, blackRatio := 0, codedBytes := 0, attempts := 0, finalK := 0, finalL := 0,
    flags := flagIf (decide (clampedDpi dpi ≠ dpi)) flagResClamped, disposition := none }

/-- Appends a face record to an item and makes it the stream's current face, the context in the given state. -/
def appendFace (st : Stream) (ix : ItemIx) (n : Nat) (f : FaceRecord) (state : CtxState) (rows : Nat) (s : State) : State :=
  let s := modItem ix (fun r => { r with faces := r.faces ++ [f] }) s
  setContext st { s.stk.contexts[st] with state := state, face := some n, rows := rows } s

/-- A face refused at its FACE OPEN (R33, R34). -/
def FaceRecord.refuse (f : FaceRecord) (d : Disposition) : FaceRecord := { f with state := .final, disposition := some d }

/-- A FACE OPEN that is not an extra face settles its geometry and asks for a slot (R33, R34, R49, R66 to R68). -/
def createFace (st : Stream) (ix : ItemIx) (r : ItemRecord) (side : Side) (dpi width height : Nat) (s : State) : State :=
  let n := r.faces.length
  let rows := (s.stk.contexts[st]).rows
  if width < 64 ∨ 4096 < width ∨ height < 32 then
    appendFace st ix n ((newFace side dpi width height 0 0).refuse .refusedGeometry) .item rows s
  else
    let keptWidth := min width Config.maxKeptWidth
    let keptHeight := min height Config.maxKeptHeight
    let cropped := flagIf (decide (keptWidth ≠ width ∨ keptHeight ≠ height)) flagCropped
    let f := (newFace side dpi width height keptWidth keptHeight).setFlags cropped
    match lowestFreeSlot s.fmc with
    | none => appendFace st ix n (f.refuse .refusedNoSlot) .item rows s
    | some k =>
      let c := bindContext f.captureDpi keptWidth keptHeight r.profile.outDpi r.profile.toneSlot
      let f := (f.setFlags (flagIf (decide (f.captureDpi ≤ r.profile.outDpi)) flagNotReduced))
      let f := { f with slot := some k, outWidth := c.outWidth, outHeight := c.outHeight }
      let s := setSlot k .filling { s with scu := s.scu.set k (some c) }
      evalPacing (appendFace st ix n f .face 0 s)

/-- An extra face: beyond the declared count, or of a side the item already has (R32). -/
def isExtraFace (r : ItemRecord) (side : Side) : Bool :=
  decide (r.declared ≤ r.faces.length) || r.faces.any (fun f => f.side = side)

/-- A FACE OPEN with an item open: a face being filled is completed short first; then an extra face is marked, any other
created (R32 to R35). At an extra face the rows received stay as they were (DESIGN CHOICE, log entry 25). -/
def faceOpenTaken (st : Stream) (side : Side) (dpi width height : Nat) (ix : ItemIx) (s : State) : State :=
  let c := s.stk.contexts[st]
  let s := match c.state, c.face with
    | .face, some n => completeShort st ix n s
    | _, _ => s
  match itemAt s ix with
  | none => s
  | some r =>
    if isExtraFace r side then
      let s := modItem ix (fun r => r.setFlags itemExtraFace) s
      setContext st { s.stk.contexts[st] with face := none } s
    else createFace st ix r side dpi width height s

/-- FACE_OPEN (R3, R4, R6, R19, R32 to R35). -/
def execFaceOpen (stream : Stream) (rec : Carried) (parity : Option ParityRead) (s : State) :
    Host.Outcome State Fault Refusal :=
  let r : Record := { kind := 0x11, target := byteOf stream.val, body := rec }
  .next <| recordArrives r
    (rawDestination r stream (fun s =>
      if payloadFaulty rec 7 || decide (1 < param rec.payload 0 1) then countPayloadFault s
      else
        let side : Side := if param rec.payload 0 1 = 0 then .front else .back
        withOpenItem stream parity
          (faceOpenTaken stream side (param rec.payload 1 2) (param rec.payload 3 2) (param rec.payload 5 2)) s)) s

/-! ## STRIP -/

/-- The rows of a sound strip: of each row the leftmost kept-width samples (R36). -/
def stripSamples (declWidth keptWidth n : Nat) (samples : List Byte) : List InputRow :=
  (List.range n).map (fun i => .samples (((samples.drop (i * declWidth)).take declWidth).take keptWidth))

/-- What a STRIP contributes to a face of these widths, and whether it is sound (R36, R37). -/
def stripRows (rec : Carried) (declWidth keptWidth : Nat) : List InputRow × Bool :=
  if !checkOk rec then (List.replicate ((rec.payload.length - 1) / declWidth) .white, false)
  else
    match rec.payload with
    | [] => ([], false)
    | b :: samples =>
      let n := b.toNat
      if n = 0 then ([], false)
      else if 16 < n then (List.replicate 16 .white, false)
      else if rec.payload.length ≠ 1 + n * declWidth then (List.replicate n .white, false)
      else (stripSamples declWidth keptWidth n samples, true)

/-- Rows above the declared height have come (R38, R39). -/
def excessRows (f : FaceRecord) (before n : Nat) : Bool := decide (0 < n ∧ f.declHeight < before + n)

/-- A STRIP in FACE: its rows up to the kept height go to the Scaling Unit, the others are dropped; the input is complete
when the rows received reach the kept height (R36 to R38). -/
def stripInFace (st : Stream) (ix : ItemIx) (n : Nat) (f : FaceRecord) (rec : Carried) (s : State) : State :=
  let c := s.stk.contexts[st]
  let rows := stripRows rec f.declWidth f.keptWidth
  let count := rows.1.length
  let complete := decide (f.keptHeight ≤ c.rows + count)
  let flags := flagIf (!rows.2) flagDataLoss ||| flagIf (excessRows f c.rows count) flagExcessRows
  let s := modFace ix n (fun f => f.setFlags flags) s
  let s := match f.slot with
    | some k => handRows k (rows.1.take (f.keptHeight - c.rows)) complete s
    | none => s
  setContext st { c with rows := c.rows + count, state := if complete then .item else .face } s

/-- A STRIP in ITEM: dropped with no current face or a refused one, else counted against the current face (R39). -/
def stripInItem (st : Stream) (ix : ItemIx) (n : Nat) (f : FaceRecord) (rec : Carried) (s : State) : State :=
  if f.disposition = some .refusedGeometry ∨ f.disposition = some .refusedNoSlot then s
  else
    let c := s.stk.contexts[st]
    let count := (stripRows rec f.declWidth f.keptWidth).1.length
    let s := modFace ix n (fun g => g.setFlags (flagIf (excessRows f c.rows count) flagExcessRows)) s
    setContext st { c with rows := c.rows + count } s

/-- A STRIP with an item open (R36 to R39). -/
def stripTaken (st : Stream) (rec : Carried) (ix : ItemIx) (s : State) : State :=
  let c := s.stk.contexts[st]
  match c.face with
  | none => s
  | some n =>
    match faceAt s ix n with
    | none => s
    | some f => if c.state = .face then stripInFace st ix n f rec s else stripInItem st ix n f rec s

/-- STRIP (R3, R4, R6, R36 to R39). -/
def execStrip (stream : Stream) (rec : Carried) (parity : Option ParityRead) (s : State) :
    Host.Outcome State Fault Refusal :=
  let r : Record := { kind := 0x12, target := byteOf stream.val, body := rec }
  .next <| recordArrives r
    (rawDestination r stream (fun s => withOpenItem stream parity (stripTaken stream rec) s)) s

/-! ## ITEM CLOSE, ITEM CANCEL and the stall timer -/

/-- ITEM_CLOSE (R3, R4, R6, R40). -/
def execItemClose (stream : Stream) (rec : Carried) (parity : Option ParityRead) (s : State) :
    Host.Outcome State Fault Refusal :=
  let r : Record := { kind := 0x13, target := byteOf stream.val, body := rec }
  .next <| recordArrives r
    (rawDestination r stream (fun s =>
      if payloadFaulty rec 0 then countPayloadFault s
      else withOpenItem stream parity (fun ix s => closeItem stream ix 0 parity s) s)) s

/-- A face made ABANDONED, its measurements as they stand; it keeps its slot only while converting (R41). -/
def FaceRecord.abandon (f : FaceRecord) (slot : Option Slot) : FaceRecord :=
  { f with state := .final, disposition := some .abandoned, slot := slot }

/-- Face `n` of an aborted item is handed off by the state it is in (R41, R53, R79, R94). -/
def abortFace (ix : ItemIx) (s : State) (n : Nat) : State :=
  match faceAt s ix n with
  | none => s
  | some f =>
    match f.state, f.slot with
    | .filling, some k =>
      toScrub k { modFace ix n (fun f => f.abandon none) s with scu := s.scu.set k none }
    | .ready, some k =>
      let s := modFace ix n (fun f => f.abandon none) s
      toScrub k { s with fmc := { s.fmc with ready := s.fmc.ready.erase k } }
    | .converting, slot =>
      let s := modFace ix n (fun f => f.abandon slot) s
      { s with cnv := s.cnv.map (fun w => if w.item = ix ∧ w.face = n then { w with abandonMark := true } else w) }
    | .final, some k =>
      if s.fmc.slots[k] = .coded then toScrub k (modFace ix n (fun f => { f with slot := none }) s) else s
    | .final, none => s
    | _, none => modFace ix n (fun f => f.abandon none) s

/-- With the abandon mark set while the face is being settled, or after an attempt that ended OVER, the engine is at a row
boundary and stops at once (R94, R96, R128, R142). -/
def stopIfSettling (parity : Option ParityRead) (s : State) : State :=
  match s.cnv with
  | none => s
  | some w =>
    match w.phase with
    | .evaluating _ _ | .boundary => if w.abandonMark then cnvStop parity w s else s
    | .rows | .lastWord => s

/-- Aborts the open item `ix` of a stream: every face is handed off in face-list order, the item is DECIDED with the outcome,
the context goes to the given state, and a pending role is applied (R41, R43, R146). The rows received stay as they were
(DESIGN CHOICE, log entry 25). -/
def abortItem (st : Stream) (ix : ItemIx) (outcome : ItemOutcome) (after : CtxState) (parity : Option ParityRead)
    (s : State) : State :=
  let faces := match itemAt s ix with
    | some r => r.faces.length
    | none => 0
  let s := (List.range faces).foldl (abortFace ix) s
  let s := modItem ix (fun r => { r with state := .decided, outcome := some outcome }) s
  let s := setContext st { s.stk.contexts[st] with state := after, item := none, face := none, timer := none } s
  relTry parity (stopIfSettling parity (applyPending st s))

/-- ITEM_CANCEL (R3, R4, R6, R41). -/
def execItemCancel (stream : Stream) (rec : Carried) (parity : Option ParityRead) (s : State) :
    Host.Outcome State Fault Refusal :=
  let r : Record := { kind := 0x14, target := byteOf stream.val, body := rec }
  .next <| recordArrives r
    (rawDestination r stream (fun s =>
      if payloadFaulty rec 0 then countPayloadFault s
      else withOpenItem stream parity (fun ix s => abortItem stream ix .cancelled .idle parity s) s)) s

/-- STALL_EXPIRY: a running stall timer expires and the open item is aborted with outcome STALLED, the context going to
DISCARD. A stopped timer does not expire (R42, R43). -/
def execStallExpiry (stream : Stream) (parity : Option ParityRead) (s : State) : Host.Outcome State Fault Refusal :=
  .next <|
    let c := s.stk.contexts[stream]
    if s.flm.part = .operating ∧ c.timer.isSome then
      if parity = some .context then latch .tableParity s
      else
        match c.item with
        | none => s
        | some ix =>
          if parity = some .record then latch .tableParity s
          else abortItem stream ix .stalled .discard parity s
    else s

end Sys2Proof.Machine
end

