-- ==== Sys2Proof/Machine/Pipeline.lean ====
section
/-! DEFINITION. The steps of the pipeline: rows through the Scaling Unit, faces through the Conversion Engine and the
Quality Rule Unit, and the composing of coded segments (Chapters 4 to 9). -/

namespace Sys2Proof.Machine

/-! ## Scaling Unit -/

/-- SCU_INPUT_ROW: the next row handed over for the face in this slot goes through the horizontal and vertical passes; an
output row it finishes is written, or held when it is the last. A parity error in the tone curve read latches instead;
tone slot 0 has no parity (R69 to R71, R74, R76, R204). -/
def execScuInputRow (slot : Slot) (parity : Option ParityRead) (s : State) : Host.Outcome State Fault Refusal :=
  .next <|
    match s.scu[slot] with
    | none => s
    | some c =>
      match c.waiting with
      | [] => s
      | row :: rest =>
        if parity = some .entry ∧ finishesRow c ∧ c.toneSlot ≠ 0 then latch .tableParity s
        else
          let t := takeInputRow s.dru { c with waiting := rest } row
          let s := { s with scu := s.scu.set slot (some t.1) }
          match t.2 with
          | none => s
          | some (k, out) => writeGrey slot k out s

/-- LAST_ROW_WRITE_COMPLETE: at the end of a face's input, every row taken, the held row is written as the last output row, the
mean grey is set, slot and face become READY, the context is released, and an idle engine takes the head (R50, R51, R72,
R76). -/
def execLastRowWriteComplete (slot : Slot) (parity : Option ParityRead) (s : State) : Host.Outcome State Fault Refusal :=
  .next <|
    match s.scu[slot] with
    | none => s
    | some c =>
      match c.lastRow with
      | none => s
      | some row =>
        if c.inputEnded ∧ c.waiting = [] ∧ s.fmc.slots[slot] = .filling then
          let s := writeGrey slot (c.outHeight - 1) row s
          let s := match faceHolding s slot with
            | some (ix, n) => modFace ix n (fun f => { f with meanGrey := meanGreyOf c row, state := .ready }) s
            | none => s
          cnvTake parity
            { s with
              scu := s.scu.set slot none
              fmc := { s.fmc with slots := s.fmc.slots.set slot .ready, ready := s.fmc.ready ++ [slot] } }
        else s

/-! ## Conversion Engine -/

/-- The rows released when row `k` has been thresholded, despeckled, in order; `window` holds the rows thresholded before it,
the latest first (R88, R89). -/
def releasedRows (level height k : Nat) (window : List (List Bool)) (row : List Bool) : List (List Bool) :=
  let white := whiteRow row.length
  let before := match window with
    | [] => []
    | w :: rest => [despeckle level (rest.headD white) w row]
  let last := if k + 1 = height then [despeckle level (window.headD white) row white] else []
  before ++ last

/-- The releases of one step: rows released, black pixels counted, the coder at work (R90, R106). -/
structure Releases where
  released : Nat
  black    : Nat
  run      : CodeRun
deriving DecidableEq, Repr

/-- Releases one row: its black pixels are counted before it is coded; after OVER no row is released (R90). -/
def releaseRow (entries : List CodeEntry) (p : Profile) (limit : Nat) (x : Releases) (row : List Bool) : Releases :=
  if x.run.stopped then x
  else { released := x.released + 1, black := x.black + blackIn row, run := codeRow entries p limit x.run row }

/-- Appends FACE_END when every row of the face has been coded (R106, R114). -/
def appendFaceEnd (entries : List CodeEntry) (limit : Nat) (r : CodeRun) : CodeRun :=
  appendCode entries limit r (.control .faceEnd)

/-- Releases and codes the rows of one step of the work state `w`, and FACE_END after the last row (R90, R106, R114). -/
def releaseRows (entries : List CodeEntry) (w : Work) (rows : List (List Bool)) : Releases :=
  let x := rows.foldl (releaseRow entries w.params w.limit)
    { released := w.released, black := w.black, run := { coder := w.coder, words := [], stopped := false } }
  if w.nextRow + 1 = w.height then { x with run := appendFaceEnd entries w.limit x.run } else x

/-- What the end of an attempt writes into the face record (R91, R92, R116). -/
def FaceRecord.endAttempt (f : FaceRecord) (w : Work) : FaceRecord :=
  { f with attempts := w.attempt + 1, finalK := w.k, finalL := w.l, blackCount := w.black,
           blackRatio := blackRatioOf w.black w.width w.height, codedBytes := min w.coder.bytes Config.codedArea }

/-- Settles the engine's face: the record takes its final values, the slot goes to CODED when the face is kept and to
SCRUBBING when it is withheld, the engine becomes IDLE; then the item may be decided, the next face taken, the next
release begun (R52, R93, R127, R143). -/
def settleFace (w : Work) (kept : Bool) (g : FaceRecord → FaceRecord) (parity : Option ParityRead) (s : State) : State :=
  let s := modFace w.item w.face
    (fun f => { (g f) with state := .final, slot := if kept then f.slot else none }) s
  let s := if kept then setSlot w.slot .coded s else toScrub w.slot s
  relTry parity (cnvTake parity (decideItem parity w.item { s with cnv := none }))

/-- An attempt has ended OVER: its measurements are written, and the face is withheld or the engine stands at the boundary
before the next attempt, its work state set for it (R92, R121, R124, R128). -/
def attemptOver (w : Work) (parity : Option ParityRead) (s : State) : State :=
  if w.attempt + 1 < w.params.maxAttempts then
    { modFace w.item w.face (fun f => f.endAttempt w) s with
      cnv := some { startAttempt (w.attempt + 1) w with phase := .boundary } }
  else
    settleFace w false (fun f => { (f.endAttempt w) with disposition := some .withheldOver }) parity s

/-- After the row has been read as `row`: threshold, background, despeckle and coding, then what follows at the row boundary.
Of the thresholded rows the window keeps the two latest, the ones a later release needs (R84 to R90, R95, R113 to R115, log
entry 32). -/
def convertRow (w : Work) (row : List Byte) (parity : Option ParityRead) (s : State) : State :=
  let pixels := thresholdRow w.k w.params.tmin w.params.tmax w.background row
  let rows := releasedRows w.l w.height w.nextRow w.window pixels
  if parity = some .entry ∧ w.params.codeSlot ≠ 0 ∧ rows ≠ [] then latch .tableParity s
  else
    let x := releaseRows (slotEntries s.dru w.params.codeSlot) w rows
    let s := writeCoded w.slot w.coder.wordsWritten x.run.words.flatten s
    let last := decide (w.nextRow + 1 = w.height)
    let w' := { w with
      nextRow := w.nextRow + 1, background := nextBackgroundLine w.params.guardBand w.background row,
      window := (pixels :: w.window).take 2, phase := .rows, released := x.released, black := x.black, coder := x.run.coder }
    if x.run.stopped then if w.abandonMark then cnvStop parity w' s else attemptOver w' parity s
    else if last then { s with cnv := some { w' with phase := .lastWord } }
    else if w.abandonMark then cnvStop parity w' s
    else { s with cnv := some w' }

/-- CNV_GREY_ROW: the engine completes the work of one grey row. The row's words are read, an uncorrectable word giving 255
for each sample and MEMORY_FAULT unless the abandon mark is set; a fault latched by a read ends the work (R46, R47, R85
to R90, R94, R97). With the engine IDLE these are results of reads requested before its work was discarded: they count and
are not used (R97, log entry 30). -/
def execCnvGreyRow (reads : List ReadResult) (parity : Option ParityRead) (s : State) : Host.Outcome State Fault Refusal :=
  .next <|
    match s.cnv with
    | none => if s.flm.part = .operating ∨ s.flm.part = .bypass then reads.foldl (fun s r => countResult r s) s else s
    | some w =>
      if (w.phase = .rows ∨ w.phase = .boundary) ∧ s.fmc.slots[w.slot] = .converting ∧ w.nextRow < w.height then
        let base := greyBase w.slot + w.nextRow * Config.rowStride
        let read := readWords ((w.width + 7) / 8) (base / 8) reads s
        if latchedSince s read.1 then read.1
        else
          let s := if read.2.any id ∧ ¬ w.abandonMark then
              modFace w.item w.face (fun f => f.setFlags flagMemoryFault) read.1
            else read.1
          convertRow w (substituteBad 255 read.2 (s.fmc.mem.readBytes base w.width)) parity s
      else s

/-- The disposition of an attempt that ended FIT (R122). -/
def fitDisposition (codedBytes ceiling : Nat) : Disposition := if codedBytes ≤ ceiling then .coded else .codedOver

/-- The flags set at settling: OVER_CEILING, UNDERSIZE (R122, R123). -/
def fitFlags (codedBytes ceiling floor : Nat) : BitVec 32 :=
  if codedBytes ≤ ceiling then flagIf (decide (codedBytes < floor)) flagUndersize else flagOverCeiling

/-- The coder once the attempt's last word is written: the word in hand counted as written, none where none was in hand. The
bit count leaves the padding out (R105, R113, R114, log entry 31). -/
def Coder.finish (c : Coder) : Coder :=
  if c.hand = [] then c else { c with wordsWritten := c.wordsWritten + 1, hand := [] }

/-- ATTEMPT_FIT: the write of the attempt's last word completes. With the abandon mark set the engine stops; otherwise the
measurements are written and the face goes to the Quality Rule Unit, disposition and flags of settling kept with the work
state until the evaluation ends (R92, R95, R114, R116, R122, R123, R127, R128, R133). DESIGN CHOICE (log entry 4): the engine
reads the item record first, whether or not the abandon mark is set, and a parity error found then latches TABLE_PARITY. -/
def execAttemptFit (parity : Option ParityRead) (s : State) : Host.Outcome State Fault Refusal :=
  .next <|
    match s.cnv with
    | none => s
    | some w =>
      if w.phase = .lastWord then
        if parity = some .converter then latch .tableParity s
        else
          let s := writeCoded w.slot w.coder.wordsWritten (lastWordBytes w.coder) s
          if w.abandonMark then cnvStop parity w s
          else
            let s := modFace w.item w.face (fun f => f.endAttempt w) s
            match faceAt s w.item w.face with
            | none => s
            | some f =>
              let disposition := fitDisposition f.codedBytes w.params.ceiling
              let working := f.flags ||| fitFlags f.codedBytes w.params.ceiling w.params.floor
              { s with cnv := some { w with coder := w.coder.finish, phase := .evaluating working disposition } }
      else s

/-- EVALUATION_END: entry 31 has been taken; the rule result is combined into the face record, the face becomes FINAL and its
slot is moved. A parity error in the read of a rule entry latches instead (R134 to R140, R204). -/
def execEvaluationEnd (parity : Option ParityRead) (s : State) : Host.Outcome State Fault Refusal :=
  .next <|
    match s.cnv with
    | none => s
    | some w =>
      match w.phase, faceAt s w.item w.face with
      | .evaluating working disposition, some f =>
        if parity = some .entry then latch .tableParity s
        else
          let result := ruleResult disposition (takeEntries s.dru.rules f w.params.ruleMask working)
          settleFace w (result.2 ≠ .withheldRule)
            (fun f => { (f.setFlags result.1) with disposition := some result.2 }) parity s
      | _, _ => s

/-! ## Release Engine -/

/-- CODED_SEGMENT_COMPOSED: the segment's words are read from the coded area, an uncorrectable word giving zero bytes and
MEMORY_FAULT on the face, and the segment is offered. A fault latched by a read ends the release (R46, R159, R165). -/
def execCodedSegmentComposed (reads : List ReadResult) (parity : Option ParityRead) (s : State) :
    Host.Outcome State Fault Refusal :=
  .next <|
    match s.rel.release with
    | none => s
    | some x =>
      match x.current, x.offered, itemAt s x.item with
      | .segment n i, none, some r =>
        match r.faces[n]? with
        | none => s
        | some f =>
          match f.slot with
          | none => s
          | some k =>
            if s.fmc.slots[k] ≠ .coded then s
            else if parity = some .release then latch .tableParity s
            else
              let length := segmentLength f.codedBytes i
              let base := codedBase k + Config.segmentBytes * i
              let read := readWords ((length + 7) / 8) (base / 8) reads s
              if latchedSince s read.1 then read.1
              else
                let data := substituteBad 0 read.2 (read.1.fmc.mem.readBytes base length)
                let s := if read.2.any id then modFace x.item n (fun f => f.setFlags flagMemoryFault) read.1 else read.1
                { s with rel := { s.rel with release := some { x with offered := some (segmentRecord r f i data) } } }
      | _, _, _ => s

end Sys2Proof.Machine
end

