-- ==== Sys2Proof/Machine/Directives.lean ====
section
/-! DEFINITION. The Directive Unit: taking a directive, its checks, and the effect of each (Chapter 10). A directive's effect is
a function of its whole payload `p`, its tag, and the state. -/

namespace Sys2Proof.Machine

/-! ## Taking and refusing -/

/-- The ANSWER to a directive (R167, R173). -/
def answer (p : List Byte) (tag : Tag) (status : Status) (fields : List Byte) (s : State) : State :=
  pushNotice { kind := .answer, status := status, subject := p.headD 0, tag := tag, fields := fields } s

/-- Checks 1 to 4 of R168, then the directive's own `act`. -/
def takeDirective (rec : Carried) (act : List Byte → Tag → State → State) (s : State) : State :=
  let p := rec.payload
  if !checkOk rec then answer p rec.tag .badCheck [] s
  else if s.flm.part = .starting then answer p rec.tag .starting [] s
  else
    match directiveLength ((p.headD 0).toNat) with
    | none => answer p rec.tag .unknown [] s
    | some n =>
      if p.length ≠ n then answer p rec.tag .badLength (toBE 2 p.length) s
      else act p rec.tag s

/-- Check 6 of R168: the first field out of range refuses the directive and names its offset (R169). -/
def checkRange (ranges : List (Nat × Bool)) (p : List Byte) (tag : Tag) (act : State → State) (s : State) : State :=
  match firstOutOfRange ranges with
  | some o => answer p tag .range (toBE 2 o) s
  | none => act s

/-- Check 5 of R168, for the three table loads (R179). -/
def checkQuiescedLoad (p : List Byte) (tag : Tag) (act : State → State) (s : State) : State :=
  if s.dru.quiesce = .quiesced then act s else answer p tag .notQuiesced [] s

/-- The record of a directive. -/
def directiveRecord (station : Fin 32) (rec : Carried) : Record :=
  { kind := 0x30, target := byteOf station.val, body := rec }

/-- A DIRECTIVE arrives: in OPERATING it is consumed when addressed to this station, consumed and passed when broadcast, else
passed; in STARTING one addressed here is passed too; in BYPASS all are passed (R4 to R6). The Directive Unit acts before
the copy is offered (log entry 10). -/
def directiveArrives (station : Fin 32) (rec : Carried) (act : List Byte → Tag → State → State) (s : State) : State :=
  let r := directiveRecord station rec
  recordArrives r
    (fun s =>
      if s.flm.part = .bypass then offerPass r s
      else if station.val = Config.broadcast then offerPass r (takeDirective rec act s)
      else if station.val = s.sus.working.station then
        if s.flm.part = .starting then offerPass r (takeDirective rec act s) else takeDirective rec act s
      else offerPass r s) s

/-- What a directive of a known code carries as a record: the code, then the parameters (R21). -/
def carriedOf (d : Directive) (code : Byte) : Carried :=
  { tag := d.tag, payload := code :: d.params, check := d.check }

/-! ## The effect of each directive -/

/-- The ten counts and the mismatch count set to 0 (R175). -/
def clearCounts (s : State) : State :=
  { s with
    ilu := { s.ilu with headerFaults := 0, payloadFaults := 0, unknownKinds := 0, monitor := { s.ilu.monitor with count := 0 } }
    elu := { s.elu with overflow := 0 }
    stk := { s.stk with orphans := 0, accepted := 0, lost := 0 }
    fmc := { s.fmc with corrected := 0, uncorrectable := 0 }
    dru := { s.dru with lost := 0 } }

/-- STATUS QUERY: the report, then the clear, which is not made when the ANSWER cannot be (R174, R175). -/
def actStatusQuery (p : List Byte) (tag : Tag) (s : State) : State :=
  checkRange [(1, inRange 0 1 (param p 1 1))] p tag
    (fun s =>
      let made := decide (s.dru.notices.length < Config.noticeCapacity)
      let s' := answer p tag .done (statusReport s) s
      if param p 1 1 = 1 ∧ made then clearCounts s' else s') s

/-- WRITE PROFILE (R177). -/
def actWriteProfile (p : List Byte) (tag : Tag) (s : State) : State :=
  checkRange (profileRanges s.dru p) p tag
    (fun s =>
      let n := Fin.ofNat 32 (param p 1 1)
      answer p tag .done []
        { s with dru := { s.dru with profiles := s.dru.profiles.set n { valid := true, fields := profileOf p } } }) s

/-- READ PROFILE; a parity error in the read of the entry latches instead (R176, R178, R204). -/
def actReadProfile (parity : Option ParityRead) (p : List Byte) (tag : Tag) (s : State) : State :=
  checkRange [(1, inRange 0 31 (param p 1 1))] p tag
    (fun s =>
      if parity = some .entry then latch .tableParity s
      else
        let e := s.dru.profiles[Fin.ofNat 32 (param p 1 1)]
        answer p tag .done ([byteOf (param p 1 1), byteOfBool e.valid] ++ profileBytes e.fields) s) s

/-- LOAD CODE TABLE: range, then the sum check on each set (R102, R103). -/
def actLoadCodeTable (p : List Byte) (tag : Tag) (s : State) : State :=
  checkQuiescedLoad p tag
    (checkRange (codeTableRanges p) p tag
      (fun s =>
        let entries := codeEntriesOf p
        if sumCheck entries then
          answer p tag .done []
            { s with dru := { s.dru with
                codeSlots := s.dru.codeSlots.set (Fin.ofNat 3 (param p 1 1 - 1)) { valid := true, entries := entries } } }
        else answer p tag .tableInvalid [] s)) s

/-- LOAD TONE CURVE (R180). -/
def actLoadToneCurve (p : List Byte) (tag : Tag) (s : State) : State :=
  checkQuiescedLoad p tag
    (checkRange [(1, inRange 1 7 (param p 1 1))] p tag
      (fun s =>
        answer p tag .done []
          { s with dru := { s.dru with
              toneSlots := s.dru.toneSlots.set (Fin.ofNat 7 (param p 1 1 - 1)) { valid := true, curve := p.drop 2 } } })) s

/-- LOAD RULE (R132). -/
def actLoadRule (p : List Byte) (tag : Tag) (s : State) : State :=
  checkQuiescedLoad p tag
    (checkRange (ruleRanges p) p tag
      (fun s =>
        answer p tag .done []
          { s with dru := { s.dru with rules := s.dru.rules.set (Fin.ofNat 32 (param p 1 1)) (ruleOf p) } })) s

/-- The role a SET STREAM ROLE carries (R21). -/
def roleOf (v : Nat) : Role := if v = 1 then .own else .pass

/-- SET STREAM ROLE: at once with no item open, else stored as pending. A parity error in the read of the stream's context
latches instead (R23, R25, R181, R204). -/
def actSetStreamRole (parity : Option ParityRead) (p : List Byte) (tag : Tag) (s : State) : State :=
  checkRange [(1, inRange 0 15 (param p 1 1)), (2, inRange 0 1 (param p 2 1))] p tag
    (fun s =>
      if parity = some .context then latch .tableParity s
      else
        let st : Stream := Fin.ofNat 16 (param p 1 1)
        let role := roleOf (param p 2 1)
        match (s.stk.contexts[st]).state with
        | .idle | .discard =>
          pushNotice (eventNotice .roleApplied .done tag [byteOf st.val, roleByte role])
            (answer p tag .done []
              { s with stk := { s.stk with map := s.stk.map.set st { role := role, pending := none } } })
        | .item | .face =>
          answer p tag .accepted []
            { s with stk := { s.stk with
                map := s.stk.map.set st { role := (s.stk.map[st]).role, pending := some (role, tag) } } }) s

/-- QUIESCE (R184). -/
def actQuiesce (p : List Byte) (tag : Tag) (s : State) : State :=
  if s.dru.quiesce = .quiescing ∧ Config.owedCapacity ≤ s.dru.owed.length then answer p tag .busy [] s
  else
    let s' := answer p tag .accepted [] s
    if freeItems s.stk = 32 ∧ s.dru.quiesce ≠ .quiescing then
      pushNotices (grantNotices .done [tag]) { s' with dru := { s'.dru with quiesce := .quiesced } }
    else if s.dru.quiesce = .quiesced then pushNotices (grantNotices .done [tag]) s'
    else { s' with dru := { s'.dru with quiesce := .quiescing, owed := s'.dru.owed ++ [tag] } }

/-- RESUME (R186). -/
def actResume (p : List Byte) (tag : Tag) (s : State) : State :=
  let s' := answer p tag .done [] s
  pushNotices (grantNotices .withdrawn s.dru.owed) { s' with dru := { s'.dru with quiesce := .running, owed := [] } }

/-- The fence markers standing in all release queues. -/
def fenceCount (q : List QueueEntry) : Nat :=
  (q.filter (fun e => match e with
    | .fence _ => true
    | .item _ _ => false)).length

/-- The fence markers of all queues (R189). -/
def fencesHeld (r : Rel) : Nat := ((List.finRange 16).map (fun st => fenceCount r.queues[st])).sum

/-- RESTART: the ANSWER with its three counts, pending roles applied in stream order, every block's effect, owed grants
withdrawn (R57, R62 to R64, R80, R97, R164, R188, R189). -/
def actRestart (p : List Byte) (tag : Tag) (s : State) : State :=
  let owed := s.dru.owed
  let counts := [byteOf (32 - freeItems s.stk), byteOf (fencesHeld s.rel), byteOf owed.length]
  let s := (List.finRange 16).foldl (fun s st => applyPending st s) (answer p tag .done counts s)
  let s := evalPacing
    { s with
      stk := { s.stk with contexts := Vector.replicate 16 StreamCtx.idle, items := Vector.replicate 32 none }
      scu := Vector.replicate 48 none
      fmc := { discardSlots s.fmc with mark := s.sus.working.mark }
      cnv := none
      rel := { s.rel with queues := Vector.replicate 16 [], release := none }
      dru := { s.dru with quiesce := .running, owed := [], duty := 0 } }
  pushNotices (grantNotices .withdrawn owed) s

/-- SET PACING (R63, R64, R190). -/
def actSetPacing (p : List Byte) (tag : Tag) (s : State) : State :=
  checkRange [(1, inRange 0 7 (param p 1 1)), (2, inRange 4 24 (param p 2 1))] p tag
    (fun s =>
      answer p tag .done []
        (evalPacing { s with dru := { s.dru with duty := param p 1 1 }, fmc := { s.fmc with mark := param p 2 1 } })) s

/-- FENCE: BUSY when two markers are held; else its marker joins the queue and passes if it may (R149, R150, R182). -/
def actFence (p : List Byte) (tag : Tag) (s : State) : State :=
  checkRange [(1, inRange 0 15 (param p 1 1))] p tag
    (fun s =>
      let st : Stream := Fin.ofNat 16 (param p 1 1)
      if Config.fenceCapacity ≤ fenceCount s.rel.queues[st] then answer p tag .busy [] s
      else
        let s := answer p tag .accepted [] s
        relTry none (passFences st
          { s with rel := { s.rel with queues := s.rel.queues.set st (s.rel.queues[st] ++ [.fence tag]) } })) s

/-- MARK LINK ERROR (R9, R191). -/
def actMarkLinkError (p : List Byte) (tag : Tag) (s : State) : State :=
  answer p tag .done [] { s with elu := { s.elu with markError := true } }

/-- WRITE START-UP: begins a store write, whose check cell is erased first, or is refused BUSY (R192, R202). -/
def actWriteStartUp (p : List Byte) (tag : Tag) (s : State) : State :=
  checkRange (settingsRanges p) p tag
    (fun s =>
      if s.sus.write ≠ .idle then answer p tag .busy [] s
      else
        answer p tag .accepted []
          { s with sus := { s.sus with cells := s.sus.cells.set 5 0xFF, write := .erasing (settingsOf p) tag } }) s

/-- READ START-UP, BUSY while a store write is in progress (R193). -/
def actReadStartUp (p : List Byte) (tag : Tag) (s : State) : State :=
  if s.sus.write ≠ .idle then answer p tag .busy [] s else answer p tag .done (startUpReport s.sus) s

/-- The effect of the directive whose code stands in byte 0 of the payload. -/
def actByCode (p : List Byte) (tag : Tag) (s : State) : State :=
  match (p.headD 0).toNat with
  | 0x01 => actStatusQuery p tag s
  | 0x02 => actWriteProfile p tag s
  | 0x03 => actReadProfile none p tag s
  | 0x04 => actLoadCodeTable p tag s
  | 0x05 => actLoadToneCurve p tag s
  | 0x06 => actLoadRule p tag s
  | 0x07 => actSetStreamRole none p tag s
  | 0x08 => actQuiesce p tag s
  | 0x09 => actResume p tag s
  | 0x0A => actRestart p tag s
  | 0x0B => actSetPacing p tag s
  | 0x0C => actFence p tag s
  | 0x0D => actMarkLinkError p tag s
  | 0x0E => actWriteStartUp p tag s
  | 0x0F => actReadStartUp p tag s
  | _ => s

/-! ## The commands -/

/-- STATUS_QUERY (R174, R175). -/
def execStatusQuery (dir : Directive) (s : State) : Host.Outcome State Fault Refusal :=
  .next <| directiveArrives dir.target (carriedOf dir 0x01) actStatusQuery s

/-- WRITE_PROFILE (R177). -/
def execWriteProfile (dir : Directive) (s : State) : Host.Outcome State Fault Refusal :=
  .next <| directiveArrives dir.target (carriedOf dir 0x02) actWriteProfile s

/-- READ_PROFILE (R178). -/
def execReadProfile (dir : Directive) (parity : Option ParityRead) (s : State) : Host.Outcome State Fault Refusal :=
  .next <| directiveArrives dir.target (carriedOf dir 0x03) (actReadProfile parity) s

/-- LOAD_CODE_TABLE (R102). -/
def execLoadCodeTable (dir : Directive) (s : State) : Host.Outcome State Fault Refusal :=
  .next <| directiveArrives dir.target (carriedOf dir 0x04) actLoadCodeTable s

/-- LOAD_TONE_CURVE (R180). -/
def execLoadToneCurve (dir : Directive) (s : State) : Host.Outcome State Fault Refusal :=
  .next <| directiveArrives dir.target (carriedOf dir 0x05) actLoadToneCurve s

/-- LOAD_RULE (R132). -/
def execLoadRule (dir : Directive) (s : State) : Host.Outcome State Fault Refusal :=
  .next <| directiveArrives dir.target (carriedOf dir 0x06) actLoadRule s

/-- SET_STREAM_ROLE (R23, R181, R204). -/
def execSetStreamRole (dir : RoleDirective) (s : State) : Host.Outcome State Fault Refusal :=
  .next <| directiveArrives dir.target (carriedOf dir.toDirective 0x07) (actSetStreamRole dir.parity) s

/-- QUIESCE (R184). -/
def execQuiesce (dir : Directive) (s : State) : Host.Outcome State Fault Refusal :=
  .next <| directiveArrives dir.target (carriedOf dir 0x08) actQuiesce s

/-- RESUME (R186). -/
def execResume (dir : Directive) (s : State) : Host.Outcome State Fault Refusal :=
  .next <| directiveArrives dir.target (carriedOf dir 0x09) actResume s

/-- RESTART (R188, R189). -/
def execRestart (dir : Directive) (s : State) : Host.Outcome State Fault Refusal :=
  .next <| directiveArrives dir.target (carriedOf dir 0x0A) actRestart s

/-- SET_PACING (R190). -/
def execSetPacing (dir : Directive) (s : State) : Host.Outcome State Fault Refusal :=
  .next <| directiveArrives dir.target (carriedOf dir 0x0B) actSetPacing s

/-- FENCE (R149, R182). -/
def execFence (dir : Directive) (s : State) : Host.Outcome State Fault Refusal :=
  .next <| directiveArrives dir.target (carriedOf dir 0x0C) actFence s

/-- MARK_LINK_ERROR (R191). -/
def execMarkLinkError (dir : Directive) (s : State) : Host.Outcome State Fault Refusal :=
  .next <| directiveArrives dir.target (carriedOf dir 0x0D) actMarkLinkError s

/-- WRITE_START_UP (R192). -/
def execWriteStartUp (dir : Directive) (s : State) : Host.Outcome State Fault Refusal :=
  .next <| directiveArrives dir.target (carriedOf dir 0x0E) actWriteStartUp s

/-- READ_START_UP (R193). -/
def execReadStartUp (dir : Directive) (s : State) : Host.Outcome State Fault Refusal :=
  .next <| directiveArrives dir.target (carriedOf dir 0x0F) actReadStartUp s

/-- DIRECTIVE_OTHER_STATION: passed without being consumed. A station that is this part's own, or 31, makes it a directive
addressed here, which is taken by its code (R4 to R6). -/
def execDirectiveOtherStation (station : Fin 32) (rec : Carried) (s : State) : Host.Outcome State Fault Refusal :=
  .next <| directiveArrives station rec actByCode s

/-- DIRECTIVE_UNKNOWN_CODE: answered UNKNOWN, unless an earlier check fails. A payload that does begin with a directive code is
taken by that code (R5, R168). -/
def execDirectiveUnknownCode (station : Fin 32) (rec : Carried) (s : State) : Host.Outcome State Fault Refusal :=
  .next <| directiveArrives station rec actByCode s

end Sys2Proof.Machine
end

