-- ==== Sys2Proof/Machine/Egress.lean ====
section
/-! DEFINITION. The events of the egress link: the end of a record, the hold input, and reads of the pass-through region while
a passed record is sent (R15 to R18, R46). -/

namespace Sys2Proof.Machine

/-- The record in progress has ended: a passed record's entry is freed and the link lies between records (R15, R17). -/
def endRecord (source : Source) (s : State) : State :=
  { s with elu := { s.elu with
      fifo := if source = .passThrough then s.elu.fifo.tail else s.elu.fifo
      link := .between } }

/-- EGRESS_RECORD_END: at the boundary the arbiter grants the next requester with a record ready, or starts a FILL (R15, R16,
R18). -/
def execEgressRecordEnd (parity : Option ParityRead) (s : State) : Host.Outcome State Fault Refusal :=
  .next <|
    match s.elu.link with
    | .sending source _ => egressBoundary parity (endRecord source s)
    | _ => s

/-- EGRESS_HOLD_ASSERT: the egress hold input is asserted; the record in progress is completed (R16). -/
def execEgressHoldAssert (s : State) : Host.Outcome State Fault Refusal :=
  .next { s with elu := { s.elu with holdInput := true } }

/-- EGRESS_HOLD_RELEASE: the input is released; the arbiter acts at the next record boundary, which is now if the link lies
between records (R16, R206). -/
def execEgressHoldRelease (s : State) : Host.Outcome State Fault Refusal :=
  .next <|
    let s := { s with elu := { s.elu with holdInput := false } }
    if s.elu.link = .between then egressBoundary none s else s

/-- The bytes of word `w` of a record, sent as 0 (R17). -/
def zeroWord (w : Nat) (bytes : List Byte) : List Byte := bytes.mapIdx (fun i b => if i / 8 = w then 0 else b)

/-- PASS_THROUGH_READ: word `word` of the pass-through entry being sent is read; an uncorrectable one is sent as zero bytes,
counted, and may bring the limit tally to 16 (R17, R46, R47). A word outside the record is none the part reads. -/
def execPassThroughRead (word : Nat) (read : ReadResult) (s : State) : Host.Outcome State Fault Refusal :=
  match s.elu.link, s.elu.fifo with
  | .sending .passThrough bytes, p :: _ =>
    if bytes.length ≤ 8 * word then .fault .noSuchWord
    else
      let r := readWord (passEntryBase p.entry / 8 + word) read s
      .next <|
        if r.2 = .uncorrectable then
          { r.1 with elu := { r.1.elu with link := .sending .passThrough (zeroWord word bytes) } }
        else r.1
  | _, _ => .next s

end Sys2Proof.Machine
end

