-- ==== Sys2Proof/Machine/Startup.lean ====
section
/-! DEFINITION. Pin reset, the start-up scrub and verify, and the Start-up Store's write (R54 to R56, R196 to R203). -/

namespace Sys2Proof.Machine

/-- The cells after pin reset has cut a store write short: cell 5 stays erased, cells 0 to 4 are free values (R203, log entry
6). -/
def interruptedCells (used : Nat) (cells : Vector Byte 6) : Vector Byte 6 :=
  Vector.ofFn (fun i : Fin 6 => if i.val = 5 then cells[5] else Config.interruptedCell (5 * used + i.val))

/-- PIN_RESET_ASSERT: every operation in flight is abandoned and the part is held in reset, its egress sending idle characters.
What no rule gives a value before the release keeps it until then (R196, R203, log entry 11). -/
def execPinResetAssert (s : State) : Host.Outcome State Fault Refusal :=
  .next <|
    if s.flm.part = .held then s
    else
      let cut := decide (s.sus.write ≠ .idle)
      { s with
        flm := { s.flm with part := .held }
        ilu := { s.ilu with recordOpen := false, activityTimer := false }
        scu := Vector.replicate 48 none
        fmc := { s.fmc with verify := none }
        cnv := none
        rel := { s.rel with release := none }
        elu := { s.elu with link := .idleCharacters }
        sus := { s.sus with
                 cells := if cut then interruptedCells s.freeUsed s.sus.cells else s.sus.cells
                 write := .idle }
        freeUsed := if cut then s.freeUsed + 1 else s.freeUsed }

/-- The stream map from an owned-stream mask (R22). -/
def mapOfMask (mask : BitVec 16) : Vector MapEntry 16 :=
  Vector.ofFn (fun st : Fin 16 => { role := if mask.getLsbD st.val then .own else .pass, pending := none })

/-- The part at the release of pin reset: every block at its pin-reset value, the working settings and what follows from them
loaded from the store; the store's cells, face memory's contents, the hold input's level and the model's own fields
stay (R197, R200, R201). -/
def released (s : State) : State :=
  let settings := (readStore s.sus.cells).getD Settings.blank
  { State.reset with
    stk := { State.reset.stk with map := mapOfMask settings.mask }
    fmc := { State.reset.fmc with mark := settings.mark, mem := s.fmc.mem }
    elu := { State.reset.elu with holdInput := s.elu.holdInput }
    sus := { cells := s.sus.cells, working := settings, storeValid := (readStore s.sus.cells).isSome, write := .idle }
    freeUsed := s.freeUsed
    pending := s.pending }

/-- PIN_RESET_RELEASE: the part leaves reset and starts (R197). -/
def execPinResetRelease (s : State) : Host.Outcome State Fault Refusal :=
  .next <| if s.flm.part = .held then released s else s

/-- SCRUB_COMPLETE: the head of the scrub order has been overwritten with zero and becomes FREE; in STARTING the verify begins
when no slot is left (R54 to R56, R208). -/
def execScrubComplete (s : State) : Host.Outcome State Fault Refusal :=
  .next <|
    if s.flm.part = .held then s
    else
      match s.fmc.scrubOrder with
      | [] => s
      | k :: rest =>
        evalPacing
          { s with fmc := { s.fmc with
              mem := s.fmc.mem.scrub (greyBase k) Config.slotBytes
              slots := s.fmc.slots.set k .free
              scrubOrder := rest
              verify := if s.flm.part = .starting ∧ rest = [] then some true else s.fmc.verify } }

/-- VERIFY_COMPLETE: a passed verify makes the part OPERATING and makes a READY notice; a failed one reports SCRUB_VERIFY
(R195, R199). -/
def execVerifyComplete (s : State) : Host.Outcome State Fault Refusal :=
  .next <|
    match s.fmc.verify with
    | none => s
    | some passed =>
      let s := { s with fmc := { s.fmc with verify := none } }
      if s.flm.part ≠ .starting then s
      else if passed then
        pushNotice (eventNotice .ready .done 0 [byteOfBool s.sus.storeValid, byteOf s.sus.working.station])
          { s with flm := { s.flm with part := .operating } }
      else latch .scrubVerify s

/-- VERIFY_READ: a word is read by the start-up verify; it is verified when it reads as zero, clean or corrected (R56, R199). A
word outside the 48 slots is none the verify reads. -/
def execVerifyRead (word : Nat) (read : ReadResult) (nonZero : Bool) (s : State) : Host.Outcome State Fault Refusal :=
  if Config.verifyWords ≤ word then .fault .noSuchWord
  else
    match s.fmc.verify with
    | none => .next s
    | some ok =>
      let r := readWord word read s
      let failed := nonZero || decide (r.2 = .uncorrectable) || (s.fmc.mem.readBytes (8 * word) 8).any (fun b => b != 0)
      .next <|
        if latchedSince s r.1 then r.1
        else { r.1 with fmc := { r.1.fmc with verify := some (ok && !failed) } }

/-- ERASE_COMPLETE: cells 0 to 4 are erased and programming begins (R202). -/
def execEraseComplete (s : State) : Host.Outcome State Fault Refusal :=
  .next <|
    match s.sus.write with
    | .erasing c t => { s with sus := { s.sus with cells := Vector.replicate 6 0xFF, write := .programming c t } }
    | _ => s

/-- The six cells of a valid store with these contents (R200). -/
def programmedCells (c : Settings) : Vector Byte 6 :=
  let body := contentCells c
  Vector.ofFn (fun i : Fin 6 => if i.val = 5 then checkByte body else body.getD i.val 0)

/-- STORE_WRITE_COMPLETE: cell 5 has been programmed; the store holds the new contents and a STORE WRITTEN notice is made,
outside BYPASS (R202, R203). -/
def execStoreWriteComplete (s : State) : Host.Outcome State Fault Refusal :=
  .next <|
    match s.sus.write with
    | .programming c t =>
      pushNotice (eventNotice .storeWritten .done t (settingsBytes c))
        { s with sus := { s.sus with cells := programmedCells c, write := .idle } }
    | _ => s

end Sys2Proof.Machine
end

