-- ==== Sys2Proof/Machine/Ingress.lean ====
section
/-! DEFINITION. The two commands that carry a record of any bytes or any kind: HEADER_FAULT and UNKNOWN_KIND (R2, R4, R6). -/

namespace Sys2Proof.Machine

/-- The next state of an outcome that is one. -/
def nextOr (s : State) : Host.Outcome State Fault Refusal → State
  | .next t => t
  | _ => s

/-- A record of an unknown kind: passed in every part state, and counted outside BYPASS (R4, R6, R7). -/
def unknownArrives (r : Record) (s : State) : State :=
  recordArrives r
    (fun s =>
      if s.flm.part = .bypass then offerPass r s
      else offerPass r { s with ilu := { s.ilu with unknownKinds := satInc s.ilu.unknownKinds } }) s

/-- A record arrives, whatever its kind; no parity error is found in its reads. -/
def anyRecordArrives (r : Record) (s : State) : State :=
  let st : Stream := Fin.ofNat 16 r.target.toNat
  let station : Fin 32 := Fin.ofNat 32 r.target.toNat
  if headerFaulty r then recordArrives r id s
  else
    match r.kind.toNat with
    | 0x00 => nextOr s (execFill r.target r.body s)
    | 0x10 => nextOr s (execItemOpen st r.body none s)
    | 0x11 => nextOr s (execFaceOpen st r.body none s)
    | 0x12 => nextOr s (execStrip st r.body none s)
    | 0x13 => nextOr s (execItemClose st r.body none s)
    | 0x14 => nextOr s (execItemCancel st r.body none s)
    | 0x20 => nextOr s (execProducedRecord .codedHead st r.body s)
    | 0x21 => nextOr s (execProducedRecord .codedSegment st r.body s)
    | 0x22 => nextOr s (execProducedRecord .itemResult st r.body s)
    | 0x30 => directiveArrives station r.body actByCode s
    | 0x31 => nextOr s (execNotice station r.body s)
    | _ => unknownArrives r s

/-- HEADER_FAULT: a record whose bytes fail the header checks is dropped and counted once. Bytes that pass them are a record,
which goes where its kind sends it. With no record open nothing arrives (R1, R2, R7). -/
def execHeaderFault (bytes : List Byte) (s : State) : Host.Outcome State Fault Refusal :=
  .next <|
    if discardsArrival s then s
    else
      match parseRecord bytes with
      | none => countHeaderFault (endReceiving s)
      | some r => anyRecordArrives r s

/-- UNKNOWN_KIND: passed, and counted outside BYPASS. A kind code of the table of section 1.2 makes it a record of that kind
(R4, R6, R7). -/
def execUnknownKind (kind target : Byte) (rec : Carried) (s : State) : Host.Outcome State Fault Refusal :=
  let r : Record := { kind := kind, target := target, body := rec }
  .next <| if isKnownKind kind then anyRecordArrives r s else unknownArrives r s

end Sys2Proof.Machine
end

