-- ==== Sys2Proof/Machine/Dispatch.lean ====
section
/-! DEFINITION. One arm per command: each calls that command's meaning. -/

namespace Sys2Proof.Machine

def exec (i : Instr) (s : State) : Host.Outcome State Fault Refusal :=
  match i with
  | .pinResetAssert => Sys2Proof.Machine.execPinResetAssert s
  | .pinResetRelease => Sys2Proof.Machine.execPinResetRelease s
  | .startOfRecord => Sys2Proof.Machine.execStartOfRecord s
  | .framingFault cause => Sys2Proof.Machine.execFramingFault cause s
  | .headerFault bytes => Sys2Proof.Machine.execHeaderFault bytes s
  | .itemOpen stream rec parity => Sys2Proof.Machine.execItemOpen stream rec parity s
  | .faceOpen stream rec parity => Sys2Proof.Machine.execFaceOpen stream rec parity s
  | .strip stream rec parity => Sys2Proof.Machine.execStrip stream rec parity s
  | .itemClose stream rec parity => Sys2Proof.Machine.execItemClose stream rec parity s
  | .itemCancel stream rec parity => Sys2Proof.Machine.execItemCancel stream rec parity s
  | .stallExpiry stream parity => Sys2Proof.Machine.execStallExpiry stream parity s
  | .fill target rec => Sys2Proof.Machine.execFill target rec s
  | .producedRecord kind stream rec => Sys2Proof.Machine.execProducedRecord kind stream rec s
  | .notice station rec => Sys2Proof.Machine.execNotice station rec s
  | .unknownKind kind target rec => Sys2Proof.Machine.execUnknownKind kind target rec s
  | .directiveOtherStation station rec => Sys2Proof.Machine.execDirectiveOtherStation station rec s
  | .directiveUnknownCode station rec => Sys2Proof.Machine.execDirectiveUnknownCode station rec s
  | .statusQuery dir => Sys2Proof.Machine.execStatusQuery dir s
  | .writeProfile dir => Sys2Proof.Machine.execWriteProfile dir s
  | .readProfile dir parity => Sys2Proof.Machine.execReadProfile dir parity s
  | .loadCodeTable dir => Sys2Proof.Machine.execLoadCodeTable dir s
  | .loadToneCurve dir => Sys2Proof.Machine.execLoadToneCurve dir s
  | .loadRule dir => Sys2Proof.Machine.execLoadRule dir s
  | .setStreamRole dir => Sys2Proof.Machine.execSetStreamRole dir s
  | .quiesce dir => Sys2Proof.Machine.execQuiesce dir s
  | .resume dir => Sys2Proof.Machine.execResume dir s
  | .restart dir => Sys2Proof.Machine.execRestart dir s
  | .setPacing dir => Sys2Proof.Machine.execSetPacing dir s
  | .fence dir => Sys2Proof.Machine.execFence dir s
  | .markLinkError dir => Sys2Proof.Machine.execMarkLinkError dir s
  | .writeStartUp dir => Sys2Proof.Machine.execWriteStartUp dir s
  | .readStartUp dir => Sys2Proof.Machine.execReadStartUp dir s
  | .activityTimerExpiry => Sys2Proof.Machine.execActivityTimerExpiry s
  | .pacingEighth => Sys2Proof.Machine.execPacingEighth s
  | .scuInputRow slot parity => Sys2Proof.Machine.execScuInputRow slot parity s
  | .lastRowWriteComplete slot parity => Sys2Proof.Machine.execLastRowWriteComplete slot parity s
  | .cnvGreyRow reads parity => Sys2Proof.Machine.execCnvGreyRow reads parity s
  | .attemptFit parity => Sys2Proof.Machine.execAttemptFit parity s
  | .evaluationEnd parity => Sys2Proof.Machine.execEvaluationEnd parity s
  | .codedSegmentComposed reads parity => Sys2Proof.Machine.execCodedSegmentComposed reads parity s
  | .egressRecordEnd parity => Sys2Proof.Machine.execEgressRecordEnd parity s
  | .egressHoldAssert => Sys2Proof.Machine.execEgressHoldAssert s
  | .egressHoldRelease => Sys2Proof.Machine.execEgressHoldRelease s
  | .scrubComplete => Sys2Proof.Machine.execScrubComplete s
  | .verifyComplete => Sys2Proof.Machine.execVerifyComplete s
  | .eraseComplete => Sys2Proof.Machine.execEraseComplete s
  | .storeWriteComplete => Sys2Proof.Machine.execStoreWriteComplete s
  | .verifyRead word read nonZero => Sys2Proof.Machine.execVerifyRead word read nonZero s
  | .passThroughRead word read => Sys2Proof.Machine.execPassThroughRead word read s

end Sys2Proof.Machine
end

