-- ==== Sys2Proof/Safety.lean ====
section
/-! DEFINITION. What a safe state of the part is: the invariants that the statements are about, each named after what it says
of a state. -/

namespace Sys2Proof.Safety

open Sys2Proof.Machine

/-- Face memory is in its canonical form. -/
def MemoryCanonical (s : State) : Prop := s.fmc.mem.wf = true

/-- A latched cause goes with BYPASS, or with reset held since, and BYPASS with a latched cause (R195, R205). -/
def LatchSound (s : State) : Prop :=
  (s.flm.latch ≠ none → s.flm.part = .bypass ∨ s.flm.part = .held) ∧ (s.flm.part = .bypass → s.flm.latch ≠ none)

/-- The egress link sends idle characters exactly while the part is held in reset, and always sends a record while it is
STARTING or OPERATING (R15, R196). -/
def LinkSound (s : State) : Prop :=
  (s.elu.link = .idleCharacters ↔ s.flm.part = .held) ∧
    (s.flm.part = .starting ∨ s.flm.part = .operating → s.elu.link ≠ .between)

/-- The pass-through FIFO holds at most 64 records, in entries of the region that are all different, none longer than its
entry; the record being sent from it is still held (R17, R45). -/
def FifoSound (s : State) : Prop :=
  s.elu.fifo.length ≤ Config.passCapacity ∧ (s.elu.fifo.map PassEntry.entry).Nodup ∧
    (∀ p ∈ s.elu.fifo, p.length ≤ Config.passEntryBytes) ∧
    (∀ bytes, s.elu.link = .sending .passThrough bytes → s.elu.fifo ≠ [])

/-- The notice queue, the owed-grant list and the fence markers of each release queue keep their capacities, and no grant
is owed outside QUIESCING (R148, R171, R183). -/
def QueuesBounded (s : State) : Prop :=
  s.dru.notices.length ≤ Config.noticeCapacity ∧ s.dru.owed.length ≤ Config.owedCapacity ∧
    (s.dru.quiesce ≠ .quiescing → s.dru.owed = []) ∧
    ∀ st : Stream, fenceCount s.rel.queues[st] ≤ Config.fenceCapacity

/-- No item, face, row, queued entry or grant is anywhere in the part. -/
structure NoWork (s : State) : Prop where
  items : ∀ ix : ItemIx, s.stk.items[ix] = none
  contexts : ∀ st : Stream, s.stk.contexts[st] = StreamCtx.idle
  pendingRole : ∀ st : Stream, (s.stk.map[st]).pending = none
  scaling : ∀ k : Slot, s.scu[k] = none
  converting : s.cnv = none
  release : s.rel.release = none
  queues : ∀ st : Stream, s.rel.queues[st] = []
  ready : s.fmc.ready = []
  notHeld : ∀ k : Slot, isHeldSlot s.fmc.slots[k] = false
  running : s.dru.quiesce = .running
  owed : s.dru.owed = []

/-- In STARTING and in BYPASS the part holds no work (R56, R58, R80, R97, R165, R194, R206). -/
def WorkOnlyInOperating (s : State) : Prop := s.flm.part = .starting ∨ s.flm.part = .bypass → NoWork s

/-- Every slot waiting to be wiped stands in the scrub order, and every READY slot in the ready queue: no slot is forgotten
(R51, R54). -/
def SlotsAccounted (s : State) : Prop :=
  (∀ k : Slot, s.fmc.slots[k] = .scrubbing → k ∈ s.fmc.scrubOrder) ∧ (∀ k : Slot, s.fmc.slots[k] = .ready → k ∈ s.fmc.ready)

/-- A slot reads as zero throughout. -/
def SlotWiped (s : State) (k : Slot) : Prop :=
  ∀ a, k.val * Config.slotBytes ≤ a → a < (k.val + 1) * Config.slotBytes → s.fmc.mem.read a = 0

/-- No scaling context writes outside the grey area of its slot (R45, R66). -/
def ScalingWithinSlot (s : State) : Prop :=
  ∀ (k : Slot) (c : ScaleCtx), s.scu[k] = some c →
    c.outWidth ≤ Config.maxKeptWidth ∧ c.outHeight ≤ Config.maxKeptHeight ∧ c.line.length ≤ Config.maxKeptWidth ∧
      ∀ row, c.lastRow = some row → row.length ≤ Config.maxKeptWidth

/-- No trace of an earlier face is left in a slot that is FREE: it is wiped (R48, R54). -/
def FreeSlotsWiped (s : State) : Prop :=
  MemoryCanonical s ∧ ScalingWithinSlot s ∧ ∀ k : Slot, s.fmc.slots[k] = .free → SlotWiped s k

/-! ## What the statements about single commands speak of -/

/-- Face memory `m'` is `m` with these bytes written from `base` on: every other byte reads as before, the words touched carry
no error, and every other word the error it had (R46). -/
def Wrote (m m' : FaceMemory) (base : Nat) (bytes : List Byte) : Prop :=
  (∀ a, m'.read a = if base ≤ a ∧ a < base + bytes.length then bytes.getD (a - base) 0 else m.read a) ∧
    ∀ w, m'.readResult w .clean =
      if base / 8 ≤ w ∧ 8 * w < base + bytes.length then .clean else m.readResult w .clean

/-- The Directive Unit after a notice has been made: it joins the queue's tail, or is lost and counted when 16 are held
(R171). -/
def noticed (n : Notice) (d : Dru) : Dru :=
  if d.notices.length < 16 then { d with notices := d.notices ++ [n] } else { d with lost := satInc d.lost }

/-- The Directive Unit after these notices have been made, in order (R171). -/
def noticedAll (ns : List Notice) (d : Dru) : Dru := ns.foldl (fun d n => noticed n d) d

/-- A LINK notice: the state entered, the state left, the mismatch count (R13, R173). -/
def linkNotice (new old : Byte) (count : Count) : Notice :=
  { kind := .link, status := .done, subject := 0, tag := 0, fields := [new, old] ++ toBE 4 count.toNat }

/-- The LINK notices of a monitor that takes bits, link notices being on: one at each change from HUNT to SYNC and one at each
change from SYNC to HUNT (R13). -/
def bitNotices (m : Monitor) : List Bool → List Notice
  | [] => []
  | b :: bs =>
    let m' := monitorBit m b
    let made := match m.state, m'.state with
      | .hunt, .sync => [linkNotice 1 0 m'.count]
      | .sync, .hunt => [linkNotice 0 1 m'.count]
      | _, _ => []
    made ++ bitNotices m' bs

/-- What the latching of a fault leaves of the part `s`: BYPASS and the cause; no work; the FAULT notice alone; every held slot
waiting to be wiped, in slot-number order behind those already waiting; the monitor's partial trial or block gone. Roles, tables,
profiles, duty, mark, counts, tally, face memory, the link, the FIFO, the store and the monitor's state and count are kept (R12,
R17, R22, R44, R58, R64, R80, R97, R165, R194, R205, R206). That the monitor's predictor is kept too is the model's choice (log
entry 28). -/
structure Latched (cause : FaultCause) (s t : State) : Prop where
  flm : t.flm = { part := .bypass, latch := some cause }
  work : NoWork t
  notice : t.dru.notices = [{ kind := .fault, status := .done, subject := 0, tag := 0, fields := [match cause with
    | .scrubVerify => 1
    | .memoryLimit => 2
    | .tableParity => 3] }]
  roles : ∀ st : Stream, (t.stk.map[st]).role = (s.stk.map[st]).role
  tables : t.dru.profiles = s.dru.profiles ∧ t.dru.codeSlots = s.dru.codeSlots ∧ t.dru.toneSlots = s.dru.toneSlots ∧
    t.dru.rules = s.dru.rules ∧ t.dru.duty = s.dru.duty ∧ t.dru.lost = s.dru.lost
  counts : t.stk.orphans = s.stk.orphans ∧ t.stk.accepted = s.stk.accepted ∧ t.stk.lost = s.stk.lost
  ingress : t.ilu = { s.ilu with activityTimer := false, monitor := { s.ilu.monitor with position := 0, mismatches := 0 } }
  slots : ∀ k : Slot, t.fmc.slots[k] = if isHeldSlot s.fmc.slots[k] then .scrubbing else s.fmc.slots[k]
  memory : t.fmc = { s.fmc with
    slots := t.fmc.slots, ready := [], pacing := false, verify := none
    scrubOrder := s.fmc.scrubOrder ++ (List.finRange 48).filter (fun k => isHeldSlot s.fmc.slots[k]) }
  others : t.elu = s.elu ∧ t.sus = s.sus ∧ t.rel.position = s.rel.position ∧ t.freeUsed = s.freeUsed ∧ t.pending = s.pending

/-- A 32-bit count after `n` more events; it stops at its maximum (R7, R44, R46). -/
def satAdd (c : Count) (n : Nat) : Count := BitVec.ofNat 32 (min (c.toNat + n) 4294967295)

/-- What reading `n` words from `w` on finds, the devices reporting `reads` in order: a word with no report is clean unless damage
is kept in it (R46, log entry 3). -/
def wordsFound (m : FaceMemory) (w n : Nat) (reads : List ReadResult) : List ReadResult :=
  (List.range n).map (fun i => m.readResult (w + i) (reads.getD i .clean))

/-- The error counts and the limit tally after these results (R46, R47). -/
def counted (found : List ReadResult) (f : Fmc) : Fmc :=
  { f with
    corrected := satAdd f.corrected (found.count .corrected)
    uncorrectable := satAdd f.uncorrectable (found.count .uncorrectable)
    tally := satAdd f.tally (found.count .uncorrectable) }

/-- Face memory once the damage found in the words from `w` on is kept (R46, log entry 3). -/
def noted (w : Nat) : List ReadResult → FaceMemory → FaceMemory
  | [], m => m
  | r :: rest, m => noted (w + 1) rest (m.noteDamage w r)

/-- The part after reading words from `w` on with these results, no fault being latched (R46, R47). -/
def readFrom (w : Nat) (found : List ReadResult) (s : State) : State :=
  { s with fmc := { counted found s.fmc with mem := noted w found s.fmc.mem } }

/-- Bytes from address `base` on, as a reader takes them: those of an uncorrectable word are `v` (R46). -/
def taken (m : FaceMemory) (base n : Nat) (v : Byte) (found : List ReadResult) : List Byte :=
  (List.range n).map (fun i => if found[i / 8]? = some .uncorrectable then v else m.read (base + i))

/-- The rows a STRIP contributes to a face of this width, sound or not (R36, R37). -/
def stripCount (raw : Carried) (declWidth : Nat) : Nat :=
  if checkOk raw = true then
    match raw.payload with
    | [] => 0
    | n :: _ => min n.toNat 16
  else (raw.payload.length - 1) / declWidth

/-- A sound STRIP: the check passed, 1 to 16 rows, and the length that they imply (R36). -/
def soundStrip (raw : Carried) (declWidth : Nat) : Prop :=
  checkOk raw = true ∧ ∃ n samples, raw.payload = n :: samples ∧ 1 ≤ n.toNat ∧ n.toNat ≤ 16 ∧
    samples.length = n.toNat * declWidth

/-- A face of an aborted item: not yet FINAL it becomes ABANDONED, and it holds a slot no longer, but for one being converted
(R41). -/
def aborted (s : State) (f : FaceRecord) : FaceRecord :=
  match f.state with
  | .final => { f with slot := f.slot.filter (fun k => s.fmc.slots[k] ≠ .coded) }
  | .converting => { f with state := .final, disposition := some .abandoned }
  | _ => { f with state := .final, disposition := some .abandoned, slot := none }

/-- The slot that an abort of the item takes from this face at once (R53). -/
def handedOff (s : State) (f : FaceRecord) : Option Slot :=
  match f.state with
  | .final => f.slot.filter (fun k => s.fmc.slots[k] = .coded)
  | .converting => none
  | _ => f.slot

/-- An item record once a face of it has been settled: CLOSED, with every face FINAL, it is decided (R143, R144). -/
def decidedIf (r : ItemRecord) : ItemRecord :=
  if r.state = .closed ∧ ∀ f ∈ r.faces, f.state = .final then { r with state := .decided, outcome := some (itemOutcome r) }
  else r

/-- The values that the end of an attempt writes, the coder and the black count being as given (R91, R92, R116). -/
def measured (w : Work) (black bytes : Nat) (f : FaceRecord) : FaceRecord :=
  { f with
    attempts := w.attempt + 1, finalK := w.k, finalL := w.l, blackCount := black
    blackRatio := black * 10000 / (w.width * w.height), codedBytes := min bytes 131072 }

/-- The part with this record in an entry of the item table. -/
def putItem (ix : ItemIx) (r : ItemRecord) (s : State) : State :=
  { s with stk := { s.stk with items := s.stk.items.set ix (some r) } }

/-- The part with a slot taken from its face and waiting to be wiped (R52). -/
def wipeLater (k : Slot) (s : State) : State :=
  { s with fmc := { s.fmc with slots := s.fmc.slots.set k .scrubbing, scrubOrder := s.fmc.scrubOrder ++ [k] } }

/-- Item `ix` has the record `r`, its face `n` is `f`, and that face, and no other, holds the slot (R27, R48). -/
def holdsAlone (s : State) (k : Slot) (ix : ItemIx) (n : Nat) (r : ItemRecord) (f : FaceRecord) : Prop :=
  s.stk.items[ix] = some r ∧ r.faces[n]? = some f ∧ f.slot = some k ∧
    ∀ (jx : ItemIx) (p : ItemRecord) (m : Nat) (g : FaceRecord), s.stk.items[jx] = some p → p.faces[m]? = some g →
      g.slot = some k → jx = ix ∧ m = n

/-- The engine's work state as it begins attempt 0 on a face: a background of 4,080, the K and L of R83, the limit of R119, the coder
at its start (R82 to R84, R105, R119). -/
def firstAttempt (ix : ItemIx) (n : Nat) (k : Slot) (r : ItemRecord) (f : FaceRecord) : Work :=
  { item := ix, face := n, slot := k, width := f.outWidth, height := f.outHeight, params := r.profile, attempt := 0
    k := max 16 r.profile.k, l := if r.profile.despeckleStep then min 3 r.profile.l else r.profile.l
    limit := if r.profile.maxAttempts = 1 ∧ r.profile.policy = .emitFlagged then 131072 else r.profile.ceiling
    nextRow := 0, background := List.replicate f.outWidth 4080, window := [], released := 0, black := 0
    abandonMark := false
    coder := { bitCount := 0, hand := [], wordsWritten := 0, rowsCoded := 0, previous := none }
    phase := .rows }

/-- The engine's work state at the boundary before the next attempt: the threshold ratio lower by the ratio step, never below 16, the
level one up, never above 3, where the despeckle step is on, the limit of R119, all else at its start (R83, R84, R105, R119, R121). -/
def nextAttempt (w : Work) : Work :=
  { item := w.item, face := w.face, slot := w.slot, width := w.width, height := w.height, params := w.params
    attempt := w.attempt + 1, k := max 16 (w.params.k - (w.attempt + 1) * w.params.ratioStep)
    l := if w.params.despeckleStep then min 3 (w.params.l + (w.attempt + 1)) else w.params.l
    limit := if w.attempt + 2 = w.params.maxAttempts ∧ w.params.policy = .emitFlagged then 131072 else w.params.ceiling
    nextRow := 0, background := List.replicate w.width 4080, window := [], released := 0, black := 0
    abandonMark := w.abandonMark
    coder := { bitCount := 0, hand := [], wordsWritten := 0, rowsCoded := 0, previous := none }
    phase := .boundary }

/-- The part once the Conversion Engine has stopped on the face of `w`, whose item record is `r`: the engine is idle, the slot waits to be
wiped and is the face's no longer. The item, where its release has completed and no face of it holds a slot, leaves the item table and
its release queue; a table then empty in QUIESCING is QUIESCED, and the owed grants are granted (R26, R52, R95, R148, R185, R194). -/
def engineStopped (w : Work) (r : ItemRecord) (s : State) : State :=
  let left := { r with faces := r.faces.modify w.face (fun f => { f with slot := none }) }
  let spent := QueueEntry.item w.item true
  let stopped := { wipeLater w.slot s with cnv := none }
  if spent ∈ s.rel.queues[r.stream] ∧ ∀ f ∈ left.faces, f.slot = none then
    let granted : Dru := { s.dru with quiesce := .quiesced, owed := [] }
    { stopped with
      stk := { s.stk with items := s.stk.items.set w.item none }
      rel := { s.rel with
        queues := s.rel.queues.set r.stream (s.rel.queues[r.stream].filter (fun e => decide (e ≠ spent))) }
      dru := if s.dru.quiesce = .quiescing ∧ ∀ j : ItemIx, j ≠ w.item → s.stk.items[j] = none then
          if s.flm.part = .bypass then granted
          else noticedAll (s.dru.owed.map (fun tag =>
            { kind := .quiesceGrant, status := .done, subject := 0, tag := tag, fields := [] })) granted
        else s.dru }
  else putItem w.item left stopped

/-- The offset of the first field that is out of its range, the fields standing in the order of their offsets (R169). -/
def firstBad (fields : List (Nat × Bool)) : Option Nat := (fields.find? (fun x => !x.2)).map Prod.fst

/-- A field of `n` bytes at offset `o`, and whether it lies in this range. -/
def within (p : List Byte) (o n lo hi : Nat) : Nat × Bool := (o, decide (lo ≤ param p o n ∧ param p o n ≤ hi))

/-- The fields of WRITE_PROFILE that have a range, with their offsets (R21, R169, R176). -/
def profileFields (d : Dru) (p : List Byte) : List (Nat × Bool) :=
  let tone := param p 4 1 = 0 ∨ ∃ i : Fin 7, param p 4 1 = i.val + 1 ∧ (d.toneSlots[i]).valid = true
  let code := param p 10 1 = 0 ∨ ∃ i : Fin 3, param p 10 1 = i.val + 1 ∧ (d.codeSlots[i]).valid = true
  [within p 1 1 0 31, within p 2 2 100 300, (4, decide tone), within p 5 1 32 255,
   (7, decide (param p 6 1 ≤ param p 7 1)), within p 8 1 0 127, within p 9 1 0 3, (10, decide code),
   within p 11 4 1024 131072, (15, decide (param p 15 4 ≤ param p 11 4)), within p 19 1 1 4, within p 20 1 0 32,
   within p 21 1 0 1, within p 22 1 0 1, within p 23 1 0 7, within p 24 1 1 255, within p 29 1 0 1, within p 30 1 0 1]

/-- The fields of LOAD_CODE_TABLE that have a range, an entry being one field (R21, R102, R169). -/
def codeTableFields (p : List Byte) : List (Nat × Bool) :=
  within p 1 1 1 3 :: (List.range 212).map (fun j =>
    let length := param p (2 + 3 * j) 1
    (2 + 3 * j, decide (1 ≤ length ∧ length ≤ 16 ∧ param p (3 + 3 * j) 2 < 2 ^ length)))

/-- The fields of LOAD_RULE that have a range (R21, R132). -/
def ruleFields (p : List Byte) : List (Nat × Bool) :=
  [within p 1 1 0 31, within p 2 1 0 1, within p 3 1 0 2, within p 4 1 0 7, within p 5 1 0 5,
   (10, decide (param p 10 1 ≤ 15 ∨ param p 10 1 = 255)), within p 11 1 0 15, within p 12 1 0 2]

/-- The fields of WRITE_START_UP that have a range (R21, R192). -/
def settingsFields (p : List Byte) : List (Nat × Bool) := [within p 1 1 0 30, within p 4 1 4 24, within p 5 1 0 1]

/-- The bits taken that differ from the predictor's outputs (R10, R11). -/
def mismatched (taken expected : List Bool) : Nat := (List.zipWith (fun a b => a ^^ b) taken expected).count true

/-- The record that the arrival commands carry, as section 1.2 numbers the kinds. -/
def recordOf : Instr → Option Record
  | .itemOpen st rec _ => some { kind := 0x10, target := byteOf st.val, body := rec }
  | .faceOpen st rec _ => some { kind := 0x11, target := byteOf st.val, body := rec }
  | .strip st rec _ => some { kind := 0x12, target := byteOf st.val, body := rec }
  | .itemClose st rec _ => some { kind := 0x13, target := byteOf st.val, body := rec }
  | .itemCancel st rec _ => some { kind := 0x14, target := byteOf st.val, body := rec }
  | .producedRecord .codedHead st rec => some { kind := 0x20, target := byteOf st.val, body := rec }
  | .producedRecord .codedSegment st rec => some { kind := 0x21, target := byteOf st.val, body := rec }
  | .producedRecord .itemResult st rec => some { kind := 0x22, target := byteOf st.val, body := rec }
  | .notice st rec => some { kind := 0x31, target := byteOf st.val, body := rec }
  | .fill t rec => some { kind := 0x00, target := t, body := rec }
  | .unknownKind k t rec => some { kind := k, target := t, body := rec }
  | .directiveOtherStation st rec => some { kind := 0x30, target := byteOf st.val, body := rec }
  | .directiveUnknownCode st rec => some { kind := 0x30, target := byteOf st.val, body := rec }
  | .statusQuery d => some (directiveRecord d.target (carriedOf d 0x01))
  | .writeProfile d => some (directiveRecord d.target (carriedOf d 0x02))
  | .readProfile d _ => some (directiveRecord d.target (carriedOf d 0x03))
  | .loadCodeTable d => some (directiveRecord d.target (carriedOf d 0x04))
  | .loadToneCurve d => some (directiveRecord d.target (carriedOf d 0x05))
  | .loadRule d => some (directiveRecord d.target (carriedOf d 0x06))
  | .setStreamRole d => some (directiveRecord d.target (carriedOf d.toDirective 0x07))
  | .quiesce d => some (directiveRecord d.target (carriedOf d 0x08))
  | .resume d => some (directiveRecord d.target (carriedOf d 0x09))
  | .restart d => some (directiveRecord d.target (carriedOf d 0x0A))
  | .setPacing d => some (directiveRecord d.target (carriedOf d 0x0B))
  | .fence d => some (directiveRecord d.target (carriedOf d 0x0C))
  | .markLinkError d => some (directiveRecord d.target (carriedOf d 0x0D))
  | .writeStartUp d => some (directiveRecord d.target (carriedOf d 0x0E))
  | .readStartUp d => some (directiveRecord d.target (carriedOf d 0x0F))
  | _ => none

/-- The same command for another station, where it carries a directive (R5). -/
def readdressed (st : Fin 32) : Instr → Instr
  | .unknownKind k _ raw => .unknownKind k (byteOf st.val) raw
  | .directiveOtherStation _ raw => .directiveOtherStation st raw
  | .directiveUnknownCode _ raw => .directiveUnknownCode st raw
  | .statusQuery d => .statusQuery { d with target := st }
  | .writeProfile d => .writeProfile { d with target := st }
  | .readProfile d p => .readProfile { d with target := st } p
  | .loadCodeTable d => .loadCodeTable { d with target := st }
  | .loadToneCurve d => .loadToneCurve { d with target := st }
  | .loadRule d => .loadRule { d with target := st }
  | .setStreamRole d => .setStreamRole { d with target := st }
  | .quiesce d => .quiesce { d with target := st }
  | .resume d => .resume { d with target := st }
  | .restart d => .restart { d with target := st }
  | .setPacing d => .setPacing { d with target := st }
  | .fence d => .fence { d with target := st }
  | .markLinkError d => .markLinkError { d with target := st }
  | .writeStartUp d => .writeStartUp { d with target := st }
  | .readStartUp d => .readStartUp { d with target := st }
  | c => c

/-- The record of this command passes through the part and is consumed by no block, outside BYPASS: a raw record of a stream
with role PASS or of any stream in STARTING, a produced record, a notice, a record of unknown kind, a directive for
another station (R4 to R6). -/
def passesThrough (s : State) : Instr → Bool
  | .itemOpen st _ _ | .faceOpen st _ _ | .strip st _ _ | .itemClose st _ _ | .itemCancel st _ _ =>
    decide (s.flm.part = .starting) || decide ((s.stk.map[st]).role = .pass)
  | .producedRecord _ _ _ => true
  | .notice _ _ => true
  | .fill _ _ => false
  | .unknownKind k _ _ => !isKnownKind k
  | c =>
    match recordOf c with
    | some r => decide (r.target.toNat ≠ s.sus.working.station) && decide (r.target.toNat ≠ 31)
    | none => false

/-- A directive of this code ends the record being received, is for this part alone and passes the checks before its own: the
part is OPERATING, the payload
check is right, and the notice queue has room for `room` notices (R5, R168, R171). -/
structure Addressed (d : Directive) (code : Byte) (room : Nat) (s : State) : Prop where
  received : s.ilu.recordOpen = true
  operating : s.flm.part = .operating
  station : d.target.val = s.sus.working.station
  notAll : d.target.val ≠ 31
  check : checkOk (carriedOf d code) = true
  space : s.dru.notices.length + room ≤ 16

/-- A raw record of this payload length reaches the Stream Tracker (R2 to R4). -/
def reachesTracker (s : State) (st : Stream) (raw : Carried) (len : Nat) : Prop :=
  s.ilu.recordOpen = true ∧ (s.stk.map[st]).role = .own ∧ checkOk raw = true ∧ raw.payload.length = len

/-- The stream has the open item `ix` (R25). -/
def hasOpenItem (s : State) (st : Stream) (ix : ItemIx) : Prop :=
  ((s.stk.contexts[st]).state = .item ∨ (s.stk.contexts[st]).state = .face) ∧ (s.stk.contexts[st]).item = some ix

/-- A command whose parity operand names a read that R204 lists and that the command makes before any other effect on the
part, in OPERATING; ATTEMPT_FIT makes its read also with the abandon mark set (DESIGN CHOICE, log entry 4). -/
def readsBadParity (s : State) : Instr → Prop
  | .itemOpen st raw (some .context) => reachesTracker s st raw 6
  | .faceOpen st raw (some .context) => reachesTracker s st raw 7 ∧ param raw.payload 0 1 ≤ 1
  | .strip st raw (some .context) => ∃ n ≤ 16384, reachesTracker s st raw n
  | .itemClose st raw (some .context) => reachesTracker s st raw 0
  | .itemCancel st raw (some .context) => reachesTracker s st raw 0
  | .itemOpen st raw (some .record) => reachesTracker s st raw 6 ∧ ∃ ix, hasOpenItem s st ix
  | .faceOpen st raw (some .record) => reachesTracker s st raw 7 ∧ param raw.payload 0 1 ≤ 1 ∧ ∃ ix, hasOpenItem s st ix
  | .strip st raw (some .record) => (∃ n ≤ 16384, reachesTracker s st raw n) ∧ ∃ ix, hasOpenItem s st ix
  | .itemClose st raw (some .record) => reachesTracker s st raw 0 ∧ ∃ ix, hasOpenItem s st ix
  | .itemCancel st raw (some .record) => reachesTracker s st raw 0 ∧ ∃ ix, hasOpenItem s st ix
  | .itemOpen st raw (some .entry) => reachesTracker s st raw 6 ∧ s.dru.quiesce = .running ∧
      (∃ ix : ItemIx, s.stk.items[ix] = none) ∧
      ((s.stk.contexts[st]).state = .idle ∨ (s.stk.contexts[st]).state = .discard)
  | .stallExpiry st (some .context) => (s.stk.contexts[st]).timer ≠ none
  | .stallExpiry st (some .record) => (s.stk.contexts[st]).timer ≠ none ∧ ∃ ix, (s.stk.contexts[st]).item = some ix
  | .readProfile d (some .entry) => Addressed d 0x03 0 s ∧ ∃ n : Fin 32, d.params = [byteOf n.val]
  | .setStreamRole d => d.parity = some .context ∧ Addressed d.toDirective 0x07 0 s ∧ ∃ (st : Stream) (role : Role),
      d.params = [byteOf st.val, roleByte role]
  | .scuInputRow k (some .entry) => ∃ c row rest, s.scu[k] = some c ∧ c.waiting = row :: rest ∧ c.toneSlot ≠ 0 ∧
      c.lineRow < c.outHeight ∧ (c.lineRow + 1) * c.step ≤ 256 * (c.rowsTaken + 1)
  | .attemptFit (some .converter) => ∃ w, s.cnv = some w ∧ w.phase = .lastWord
  | .evaluationEnd (some .entry) => ∃ w working d r f, s.cnv = some w ∧ w.phase = .evaluating working d ∧
      s.stk.items[w.item] = some r ∧ r.faces[w.face]? = some f
  | .codedSegmentComposed _ (some .release) => ∃ x n i r f k, s.rel.release = some x ∧ x.current = .segment n i ∧
      x.offered = none ∧ s.stk.items[x.item] = some r ∧ r.faces[n]? = some f ∧ f.slot = some k ∧ s.fmc.slots[k] = .coded
  | _ => False

/-- The ANSWER to a directive of this code (R21, R167). -/
def answered (code : Byte) (tag : Tag) (status : Status) (fields : List Byte) : Notice :=
  { kind := .answer, status := status, subject := code, tag := tag, fields := fields }

/-- The part with these notices made and the arriving record taken, and nothing else changed. -/
def queued (ns : List Notice) (s : State) : State :=
  { s with ilu := { s.ilu with recordOpen := false }, dru := { s.dru with notices := s.dru.notices ++ ns } }

/-- A release queue once the fence markers with no unreleased entry ahead of them have passed, and their tags, the older first. Entries
whose release has completed hold no marker back, and stay (R150). -/
def fencesPassed (q : List QueueEntry) : List QueueEntry × List Tag :=
  let holdsNone (e : QueueEntry) : Bool := match e with
    | .item _ false => false
    | _ => true
  let tagOf (e : QueueEntry) : Option Tag := match e with
    | .fence tag => some tag
    | .item _ _ => none
  let near := q.takeWhile holdsNone
  (near.filter (fun e => (tagOf e).isNone) ++ q.dropWhile holdsNone, near.filterMap tagOf)

/-- The pixels that alternating runs spell, the first run of the colour given (R110). -/
def expandRuns (black : Bool) : List Nat → List Bool
  | [] => []
  | n :: ns => List.replicate n black ++ expandRuns (!black) ns

/-- The black pixels among the eight positions around column `c` of a row, positions outside the face being white (R89). -/
def neighboursAt (above row below : List Bool) (c : Nat) : Nat :=
  let at' := fun (r : List Bool) (i : Nat) => (r.getD i false).toNat
  let left := fun (r : List Bool) => if c = 0 then 0 else at' r (c - 1)
  left above + at' above c + at' above (c + 1) + left row + at' row (c + 1) + left below + at' below c + at' below (c + 1)

end Sys2Proof.Safety
end

