-- ==== Sys2Proof/Certificates/Slice0/Obligations.lean ====
section
/-! DEFINITION. The statements about the part, one Prop each. They follow the numbered rules of spec/: first what every step
keeps, then what reads back as it was written, then the functions of the pipeline, then what each command does. -/

open Sys2Proof Sys2Proof.Machine Sys2Proof.Safety

/-! ## The whole part -/

/-- A step runs the command at the front of the queue on the part with the queue's rest. That a part with no command waiting
idles is the model's choice (log entry 8). -/
def Obligations.StepRunsFrontCommand : Prop :=
  (∀ (c : Instr) (s : State) (rest : List Instr), s.pending = c :: rest → step s = exec c { s with pending := rest }) ∧
    ∀ s : State, s.pending = [] → step s = .next s

/-- The state after reset meets every invariant below. -/
def Obligations.ResetMeetsInvariants : Prop :=
  MemoryCanonical State.reset ∧ LatchSound State.reset ∧ LinkSound State.reset ∧ FifoSound State.reset ∧
    QueuesBounded State.reset ∧ WorkOnlyInOperating State.reset ∧ SlotsAccounted State.reset ∧ FreeSlotsWiped State.reset

/-- No command touches the queue of commands; none but the release of pin reset touches the working settings, or lowers the limit
tally (R47, R201). -/
def Obligations.CommandsKeepQueueAndSettings : Prop :=
  ∀ (c : Instr) (s t : State), exec c s = .next t →
    t.pending = s.pending ∧
      (c ≠ .pinResetRelease →
        t.sus.working = s.sus.working ∧ t.sus.storeValid = s.sus.storeValid ∧ s.fmc.tally.toNat ≤ t.fmc.tally.toNat)

/-- The part state changes as R195 lists and in no other way: assertion and release of pin reset, the passing of the start-up
verify, and a fatal fault met while the latch is clear. The latched cause changes at that fault and at the release of pin
reset, and at nothing else; so a latched cause goes with BYPASS, or with reset held since (R195, R196, R199, R205). -/
def Obligations.PartStateTransitions : Prop :=
  (∀ s t : State, LatchSound s → step s = .next t → LatchSound t) ∧
  ∀ (c : Instr) (s t : State), exec c s = .next t →
    (t.flm = s.flm) ∨
    (c = .pinResetAssert ∧ t.flm = { part := .held, latch := s.flm.latch }) ∨
    (c = .pinResetRelease ∧ s.flm.part = .held ∧ t.flm = { part := .starting, latch := none }) ∨
    (c = .verifyComplete ∧ s.flm.part = .starting ∧ s.fmc.verify = some true ∧
      t.flm = { part := .operating, latch := s.flm.latch }) ∨
    (s.flm.latch = none ∧ (s.flm.part = .starting ∨ s.flm.part = .operating) ∧
      ∃ cause, t.flm = { part := .bypass, latch := some cause })

/-- Every step keeps the canonical form of face memory. -/
def Obligations.MemoryStaysCanonical : Prop :=
  ∀ s t : State, MemoryCanonical s → step s = .next t → MemoryCanonical t

/-- Every step keeps the part free of work outside OPERATING: no item, face, row, queue entry, grant or held slot (R56, R58, R80,
R97, R165, R194, R206). That a part without work in BYPASS holds the quiesce state RUNNING is the model's choice (log entry 16). -/
def Obligations.WorkStaysInOperating : Prop :=
  ∀ s t : State, WorkOnlyInOperating s → step s = .next t → WorkOnlyInOperating t

/-- Every step keeps the egress link idle exactly in reset, and sending at every moment of STARTING and OPERATING (R15, R196). -/
def Obligations.LinkStaysSound : Prop :=
  ∀ s t : State, LinkSound s → step s = .next t → LinkSound t

/-- Every step keeps the pass-through FIFO within 64 records in distinct entries, none longer than its entry, the record being
sent still held (R17, R45). -/
def Obligations.FifoStaysSound : Prop :=
  ∀ s t : State, FifoSound s → step s = .next t → FifoSound t

/-- Every step keeps the notice queue, the owed grants and the fence markers within their capacities (R148, R171, R183). -/
def Obligations.QueuesStayBounded : Prop :=
  ∀ s t : State, QueuesBounded s → step s = .next t → QueuesBounded t

/-- Every step keeps each SCRUBBING slot in the scrub order and each READY slot in the ready queue (R51, R54). -/
def Obligations.SlotsStayAccounted : Prop :=
  ∀ s t : State, SlotsAccounted s → step s = .next t → SlotsAccounted t

/-- Every step keeps every FREE slot wiped: nothing of an earlier face is left where the next one is put (R48, R54). -/
def Obligations.FreeSlotsStayWiped : Prop :=
  ∀ s t : State, FreeSlotsWiped s → step s = .next t → FreeSlotsWiped t

/-! ## What is written reads back -/

/-- The bytes of a record that R2 does not fault are read back as that record: kind, target, tag, payload and payload check
(R2, R3, R19). -/
def Obligations.RecordBytesReadBack : Prop :=
  ∀ r : Record, headerFaulty r = false → (r.body.payload = [] → r.body.check = 0) → parseRecord (recordBytes r) = some r

/-- READ PROFILE reports a profile in the order and encoding in which an accepted WRITE PROFILE carried it (R177, R178). -/
def Obligations.ProfileReadsBackAsWritten : Prop :=
  ∀ (d : Dru) (p : List Byte), p.length = 31 → firstOutOfRange (profileRanges d p) = none →
    profileBytes (profileOf p) = p.drop 2

/-- The cells programmed for contents in range are read as a valid store with those contents (R200, R202). -/
def Obligations.ProgrammedStoreReadsBack : Prop :=
  ∀ c : Settings, c.station ≤ 30 → 4 ≤ c.mark → c.mark ≤ 24 → readStore (programmedCells c) = some c

/-- One FILL of a generator that is not stuck at zero brings a monitor that begins a trial in HUNT to SYNC, with the mismatch
count as it was and the predictor where the generator stands after that FILL (R8, R10, R11). -/
def Obligations.OneFillReachesSync : Prop :=
  ∀ (m : Monitor) (gen : BitVec 15), m.state = .hunt → m.position = 0 → m.mismatches = 0 → gen ≠ 0 →
    let sent := fillPayload gen false
    (bitsOf sent.1).foldl monitorBit m =
      { state := .sync, predictor := sent.2, position := 113, mismatches := 0, count := m.count }

/-- A monitor in SYNC with its generator takes a FILL without a mismatch; a FILL marked under R9 costs it exactly one, and both
leave it in SYNC with the generator (R8, R9, R11). A trial in HUNT loads 15 bits, discarded where all are zero, and compares 128 more with
the predictor running on its own outputs: fewer than 4 mismatches enter SYNC with the predictor as it stands, 4 or more begin a new trial;
none adds to the count (R10). A block of 128 bits in SYNC adds each of its mismatches to the count; 12 or more return the
monitor to HUNT, fewer leave it in SYNC at the next block (R11). -/
def Obligations.MarkedFillCostsOneMismatch : Prop :=
  (∀ (m : Monitor) (mark : Bool), m.state = .sync → m.position < 128 → m.mismatches + mark.toNat < 12 →
    let sent := fillPayload m.predictor mark
    let m' := (bitsOf sent.1).foldl monitorBit m
    m'.state = .sync ∧ m'.predictor = sent.2 ∧ m'.position = m.position ∧
      m'.count = if mark then satInc m.count else m.count) ∧
  (∀ (m : Monitor) (seed bits : List Bool), m.state = .hunt → m.position = 0 → m.mismatches = 0 → seed.length = 15 →
    bits.length = 128 →
    let hunting (m' : Monitor) : Prop := m'.state = .hunt ∧ m'.position = 0 ∧ m'.mismatches = 0 ∧ m'.count = m.count
    let loaded := seed.foldl fillShift 0
    let run := fillRun 128 loaded
    let wrong := mismatched bits run.1
    ((∀ b ∈ seed, b = false) → hunting (seed.foldl monitorBit m)) ∧
    ((∃ b ∈ seed, b = true) →
      (wrong < 4 → (seed ++ bits).foldl monitorBit m =
        { state := .sync, predictor := run.2, position := 0, mismatches := 0, count := m.count }) ∧
      (4 ≤ wrong → hunting ((seed ++ bits).foldl monitorBit m)))) ∧
  ∀ (m : Monitor) (bits : List Bool), m.state = .sync → m.position = 0 → m.mismatches = 0 → bits.length = 128 →
    let run := fillRun 128 m.predictor
    let wrong := mismatched bits run.1
    let m' := bits.foldl monitorBit m
    m'.count = satAdd m.count wrong ∧ m'.position = 0 ∧ m'.mismatches = 0 ∧
      (wrong < 12 → m'.state = .sync ∧ m'.predictor = run.2) ∧ (12 ≤ wrong → m'.state = .hunt)

/-! ## The functions of the pipeline -/

/-- The step of a face is 256 where the output dpi is not below the capture dpi, and else 256 x in / out rounded half up; it lies in
256 to 1,024, and the output size is floor(kept x 256 / step), never above the kept size (R67, R68). -/
def Obligations.ScaleStepAndOutputSize : Prop :=
  ∀ inn out kept : Nat, 100 ≤ inn → inn ≤ 400 → 100 ≤ out → out ≤ 300 →
    let S := scaleStep inn out
    (inn ≤ out → S = 256) ∧
      (out < inn → 257 ≤ S ∧ 2 * out * S ≤ 512 * inn + out ∧ 512 * inn + out < 2 * out * (S + 1)) ∧
      S ≤ 1024 ∧ outputSize kept S * S ≤ 256 * kept ∧ 256 * kept < (outputSize kept S + 1) * S ∧ outputSize kept S ≤ kept

/-- A horizontal value is the average of ALL samples of the row weighted by their overlap with the pixel's span, rounded once, and
the weights of a pixel inside the row sum to the step (R69). -/
def Obligations.HorizontalValueAveragesOverlap : Prop :=
  ∀ (S : Nat) (row : List Byte) (j : Nat), 256 ≤ S → S ≤ 1024 → (j + 1) * S ≤ 256 * row.length →
    horizontalValue S row j =
        (((List.range row.length).map (fun i => overlap i j S * (row.getD i 0).toNat)).sum + S / 2) / S ∧
      ((List.range row.length).map (fun i => overlap i j S)).sum = S

/-- A pixel's threshold is floor(background x K / 4,096) clamped to Tmin and Tmax; the pixel is black exactly below it; so a grey
of 255 is white and Tmax 0 gives no black pixel. Every pixel of a row is judged by the background before the row (R86). -/
def Obligations.ThresholdClampedAndCompared : Prop :=
  ∀ (k tmin tmax : Nat) (bg : List Nat) (row : List Byte) (c : Nat) (hb : c < bg.length) (hr : c < row.length),
    k ≤ 255 → tmin ≤ tmax → tmax ≤ 255 → bg[c] ≤ 4080 →
    let T := threshold k tmin tmax bg[c]
    T = max tmin (min tmax (bg[c] * k / 4096)) ∧ bg[c] * k / 4096 ≤ 254 ∧ tmin ≤ T ∧ T ≤ tmax ∧
      (thresholdRow k tmin tmax bg row)[c]? = some (decide ((row[c]).toNat < T)) ∧
      (row[c] = 255 → (thresholdRow k tmin tmax bg row)[c]? = some false) ∧
      (tmax = 0 → (thresholdRow k tmin tmax bg row)[c]? = some false)

/-- The background line after a row: each value moves an eighth of the way to 16 x grey, rounded towards itself, unless the grey
is darker than it by more than the guard; it never passes 16 x grey and stays within 0 to 4,080. Neither the pixel decided nor
despeckle enters (R87). -/
def Obligations.BackgroundFollowsPaper : Prop :=
  ∀ (G : Nat) (bg : List Nat) (row : List Byte) (c : Nat) (hb : c < bg.length) (hr : c < row.length), bg[c] ≤ 4080 →
    let old := bg[c]
    let g := (row[c]).toNat
    ∃ new, (nextBackgroundLine G bg row)[c]? = some new ∧
      ((new : Int) = if (old : Int) - 16 * G ≤ 16 * g then old + Int.tdiv (16 * g - old) 8 else old) ∧
      min old (16 * g) ≤ new ∧ new ≤ max old (16 * g) ∧ new ≤ 4080

/-- Despeckle takes away a black pixel whose black neighbours number at most the level less one, adds none, and leaves every other
pixel (R89). With the two rows thresholded last in the window, the rows of a face are released in order, each once and
despeckled against the thresholded rows above and below it, white outside the face: row k - 1 after row k, and the last row
too after the last; the window then holds the two latest rows again (R88). That the window keeps exactly the two latest rows after
each row is the model's reading (log entry 32). -/
def Obligations.DespeckleCountsNeighbours : Prop :=
  (∀ (level : Nat) (above row below : List Bool) (c : Nat) (hc : c < row.length),
    above.length = row.length → below.length = row.length →
    (despeckle level above row below)[c]? =
      some (if row[c] = true ∧ (0 < level ∧ neighboursAt above row below c ≤ level - 1) then false else row[c])) ∧
  ∀ (level : Nat) (rows : List (List Bool)) (k : Nat) (hk : k < rows.length),
    let window (n : Nat) := (rows.take n).reverse.take 2
    let white := List.replicate rows[k].length false
    releasedRows level rows.length k (window k) rows[k] =
        (if h : 0 < k then
          [despeckle level (if h2 : 2 ≤ k then rows[k - 2] else white) rows[k - 1] rows[k]] else []) ++
        (if k + 1 = rows.length then
          [despeckle level (if h : 0 < k then rows[k - 1] else white) rows[k] white] else []) ∧
      (rows[k] :: window k).take 2 = window (k + 1)

/-- The runs of a row spell the row, the first of them white; they sum to its width, no run after the first is empty, and there is
at most one more than there are pixels (R110). A row equal to the one before is coded REPEAT where row repeat is on; else a row
with more than half its pixels black is coded INVERT and the runs of the swapped row where inversion is on; else PLAIN and its
runs (R107). Runs alternate in colour from white; a run is coded by its terminal code, from 64 on by a bulk code of a multiple of
64, at most 40 of them, and a terminal code below 64 (R111). Slot 0 holds the codes of R101. -/
def Obligations.RunsSpellRow : Prop :=
  (∀ row : List Bool,
    expandRuns false (runs row) = row ∧ (runs row).sum = row.length ∧ (∀ n ∈ (runs row).tail, 1 ≤ n) ∧
      (runs row).length ≤ row.length + 1) ∧
  (∀ (p : Profile) (previous : Option (List Bool)) (row : List Bool),
    let coded (r : List Bool) := ((runs r).mapIdx (fun i n => runCodes (decide (i % 2 = 1)) n)).flatten
    let same := p.rowRepeat = true ∧ previous = some row
    let mostlyBlack := p.inversion = true ∧ row.length / 2 < row.count true
    (same → rowCodes p previous row = [.control .repeatRow]) ∧
      (¬ same → mostlyBlack → rowCodes p previous row = .control .invert :: coded (row.map (!·))) ∧
      (¬ same → ¬ mostlyBlack → rowCodes p previous row = .control .plain :: coded row)) ∧
  (∀ (black : Bool) (n : Nat), n ≤ 2560 →
    (n ≤ 63 → runCodes black n = [.terminal black n]) ∧
      (64 ≤ n → ∃ m t, 1 ≤ m ∧ m ≤ 40 ∧ t ≤ 63 ∧ n = 64 * m + t ∧ runCodes black n = [.bulk black m, .terminal black t])) ∧
  (let code (x : CodeName) := (fixedEntries[codeIndex x]?).map codeBits
   let bits (n : Nat) := (List.range 6).map (fun i => n.testBit (5 - i))
   fixedEntries.length = 212 ∧
    code (.control .plain) = some [false, false] ∧ code (.control .invert) = some [false, true] ∧
    code (.control .repeatRow) = some [true, false] ∧ code (.control .faceEnd) = some [true, true] ∧
    (∀ (black : Bool) (n : Nat), n ≤ 63 → code (.terminal black n) = some (false :: bits n)) ∧
    ∀ (black : Bool) (m : Nat), 1 ≤ m → m ≤ 40 → code (.bulk black m) = some (true :: bits (m - 1)))

/-- The coder loses no bit of the codes it appends: the words it issues and the word in hand spell them in order, and the bit count
is their number. An attempt that has not stopped is within its limit; one that stops is at most two bytes above it (R112, R113,
R120). -/
def Obligations.CoderKeepsEveryBit : Prop :=
  ∀ (entries : List CodeEntry) (limit : Nat) (names : List CodeName) (c : Coder),
    (∀ e ∈ entries, 1 ≤ e.length ∧ e.length ≤ 16) → (∀ x ∈ names, codeIndex x < entries.length) →
    c.hand.length < 64 → c.bitCount = 64 * c.wordsWritten + c.hand.length → c.bytes ≤ limit →
    let r := names.foldl (appendCode entries limit) { coder := c, words := [], stopped := false }
    (r.stopped = false →
        bitsOf r.words.flatten ++ r.coder.hand =
          c.hand ++ names.flatMap (fun x => codeBits (entries.getD (codeIndex x) { length := 0, value := 0 })) ∧
        r.coder.bytes ≤ limit) ∧
      (r.stopped = true → limit < r.coder.bytes ∧ r.coder.bytes ≤ limit + 2) ∧
      r.coder.hand.length < 64 ∧ r.coder.bitCount = 64 * r.coder.wordsWritten + r.coder.hand.length ∧
      r.words.flatten.length = 8 * (r.coder.wordsWritten - c.wordsWritten)

/-- The sum check passes a code table exactly when 2^(16 - length) sums to at most 65,536 over each of its three sets; the sums of
slot 0 are 65,536 and 53,248 twice (R103). -/
def Obligations.SumCheckPerSet : Prop :=
  (∀ control white black : List CodeEntry, control.length = 4 → white.length = 104 → black.length = 104 →
    (sumCheck (control ++ white ++ black) = true ↔
      (control.map (fun e => 2 ^ (16 - e.length))).sum ≤ 65536 ∧ (white.map (fun e => 2 ^ (16 - e.length))).sum ≤ 65536 ∧
        (black.map (fun e => 2 ^ (16 - e.length))).sum ≤ 65536)) ∧
    setSum (fixedEntries.take 4) = 65536 ∧ setSum ((fixedEntries.drop 4).take 104) = 53248 ∧
    setSum (fixedEntries.drop 108) = 53248

/-- A rule with a measure other than FLAGS_ANY compares the measure, on the left, with its value, as unsigned whole numbers,
whatever the value; LOAD RULE accepts every value (R136). FLAGS_ANY is true exactly when the working word, as it stands when the
entry is taken, and the value have a bit in common; the comparison is not used; a value of no bit, or of bits that no working
word has, never matches; the flags stand at the bits that R137 lists, Q0 to Q15 at bits 0 to 15 (R137). -/
def Obligations.RuleTests : Prop :=
  (∀ n : Fin 16, flagQ n = BitVec.ofNat 32 (2 ^ n.val)) ∧
  ([flagShort, flagCropped, flagExcessRows, flagDataLoss, flagResClamped, flagNotReduced, flagUndersize, flagOverCeiling,
    flagMemoryFault, flagSuspect] = (List.range 10).map (fun i => BitVec.ofNat 32 (2 ^ (16 + i)))) ∧
  (∀ (f : FaceRecord) (working : BitVec 32) (r : Rule), r.measure ≠ .flagsAny →
    (ruleTest f working r = true ↔
      match r.comparison with
      | .less => measureValue f r.measure < r.value.toNat
      | .lessOrEqual => measureValue f r.measure ≤ r.value.toNat
      | .equal => measureValue f r.measure = r.value.toNat
      | .notEqual => measureValue f r.measure ≠ r.value.toNat
      | .greaterOrEqual => r.value.toNat ≤ measureValue f r.measure
      | .greater => r.value.toNat < measureValue f r.measure)) ∧
    (∀ (f : FaceRecord) (working : BitVec 32) (r : Rule), r.measure = .meanGrey → r.value = 1000 → f.meanGrey ≤ 255 →
      (r.comparison = .less → ruleTest f working r = true) ∧ (r.comparison = .greater → ruleTest f working r = false)) ∧
    (∀ p q : List Byte, p.length = 13 → q.length = 13 → (∀ o, o < 6 ∨ 9 < o → p.getD o 0 = q.getD o 0) →
      firstOutOfRange (ruleRanges p) = firstOutOfRange (ruleRanges q)) ∧
  ∀ (f : FaceRecord) (mask : BitVec 32) (ev : Evaluation) (n : Nat) (r : Rule), r.measure = .flagsAny →
    (ruleTest f ev.working r = true ↔ ∃ i < 32, ev.working.getLsbD i = true ∧ r.value.getLsbD i = true) ∧
      (∀ c, ruleTest f ev.working { r with comparison := c } = ruleTest f ev.working r) ∧
      ((∀ i, 25 ≤ i → ev.working.getLsbD i = false) → (∀ i, i < 25 → r.value.getLsbD i = false) →
        ruleTest f ev.working r = false ∧ takeEntry f mask ev (n, r) = ev) ∧
      (takesPart f mask n r = true → needsMet ev.working r.needs = true → (∃ i < 32, ev.working.getLsbD i = true ∧ r.value.getLsbD i = true) →
        (takeEntry f mask ev (n, r)).working = ev.working ||| flagQ r.sets)

/-- The outcome of a CLOSED item is the first line of the table of R144 whose condition holds, read from the dispositions and flags
of its faces and MISSING_FACE alone (R144). -/
def Obligations.OutcomeTable : Prop :=
  ∀ r : ItemRecord,
    let kept := ∃ f ∈ r.faces, f.disposition = some .coded ∨ f.disposition = some .codedOver
    let lost := (∃ f ∈ r.faces, f.disposition = some .withheldOver ∨ f.disposition = some .withheldRule ∨
        f.disposition = some .refusedGeometry ∨ f.disposition = some .refusedNoSlot ∨ f.disposition = some .abandoned) ∨
      r.flags.getLsbD 2 = true
    let marked := ∃ f ∈ r.faces, f.flags.getLsbD 25 = true ∨ f.flags.getLsbD 23 = true
    (¬ kept → itemOutcome r = .failed) ∧ (kept → lost → itemOutcome r = .partialOutcome) ∧
      (kept → ¬ lost → marked → itemOutcome r = .suspect) ∧ (kept → ¬ lost → ¬ marked → itemOutcome r = .accepted)

/-- The ingress hold line follows its causes: asserted in reset; in OPERATING while at most 2 slots or 2 item records are free, 56
records stand in the pass-through FIFO, or the pacing period is in one of its first eighths, 4 of them under automatic
pacing and else the on-demand duty; in STARTING and BYPASS by the FIFO alone (R60, R61, R64, R196). -/
def Obligations.HoldLineFollowsCauses : Prop :=
  ∀ s : State,
    (s.flm.part = .held → ingressHoldLine s = true) ∧
      (s.flm.part = .starting ∨ s.flm.part = .bypass → (ingressHoldLine s = true ↔ 56 ≤ s.elu.fifo.length)) ∧
      (s.flm.part = .operating →
        (ingressHoldLine s = true ↔
          s.fmc.slots.count .free ≤ 2 ∨ s.stk.items.count none ≤ 2 ∨ 56 ≤ s.elu.fifo.length ∨
            (s.fmc.pacing = true ∧ s.ilu.eighth.val < 4) ∨ (s.fmc.pacing = false ∧ s.ilu.eighth.val < s.dru.duty)))

/-! ## The commands of the ingress link -/

/-- START_OF_RECORD opens a record; one already open was a framing fault and is counted. In STARTING and OPERATING the activity timer
restarts, and a monitor in DOWN begins a trial in HUNT, telling so where link notices are on; in BYPASS it does neither (R1,
R2, R12, R13). That the predictor keeps its value from DOWN to HUNT is the model's choice (log entry 28). -/
def Obligations.StartOfRecordOpensRecord : Prop :=
  ∀ s : State, s.flm.part ≠ .held →
    let faults := if s.ilu.recordOpen then satInc s.ilu.headerFaults else s.ilu.headerFaults
    (s.flm.part = .bypass →
      exec .startOfRecord s = .next { s with ilu := { s.ilu with recordOpen := true, headerFaults := faults } }) ∧
    (s.flm.part ≠ .bypass → s.ilu.monitor.state ≠ .down →
      exec .startOfRecord s =
        .next { s with ilu := { s.ilu with recordOpen := true, headerFaults := faults, activityTimer := true } }) ∧
    (s.flm.part ≠ .bypass → s.ilu.monitor.state = .down →
      exec .startOfRecord s = .next
        { s with
          ilu := { s.ilu with
                   recordOpen := true, headerFaults := faults, activityTimer := true,
                   monitor := { s.ilu.monitor with state := .hunt, position := 0, mismatches := 0 } }
          dru := if s.sus.working.linkNotices then
              noticed { kind := .link, status := .done, subject := 0, tag := 0,
                        fields := [0, 2] ++ toBE 4 s.ilu.monitor.count.toNat } s.dru
            else s.dru })

/-- FRAMING_FAULT ends the open record and counts one header fault, whichever its cause; with no record open it does nothing.
HEADER_FAULT, a record whose bytes meet one of the conditions of R2, is dropped and counted once: nothing else changes. With no
record open nothing arrives, whatever the command (R1, R2, R7). In OPERATING, on an owned stream, ITEM_OPEN, FACE_OPEN, ITEM_CLOSE
and ITEM_CANCEL with a wrong payload check or a payload that does not fit the kind are payload faults, dropped and counted
once (R3); and FACE_OPEN, STRIP, ITEM_CLOSE and ITEM_CANCEL in IDLE or DISCARD are orphans, dropped and counted once (R44). -/
def Obligations.FaultyRecordsDroppedAndCounted : Prop :=
  (∀ s : State, s.flm.part ≠ .held →
    let dropped : State := { s with ilu := { s.ilu with recordOpen := false, headerFaults := satInc s.ilu.headerFaults } }
    (∀ cause, (s.ilu.recordOpen = true → exec (.framingFault cause) s = .next dropped) ∧
      (s.ilu.recordOpen = false → exec (.framingFault cause) s = .next s)) ∧
    ∀ bytes : List Byte, s.ilu.recordOpen = true →
      let len := param bytes 2 2
      let kind := bytes.getD 0 0
      let target := (bytes.getD 1 0).toNat
      (bytes.length < 8 ∨ (crc16 (bytes.take 6)).toNat ≠ param bytes 6 2 ∨ 16384 < len ∨
          bytes.length ≠ (if len = 0 then 8 else len + 12) ∨
          (kind ∈ [0x10, 0x11, 0x12, 0x13, 0x14, 0x20, 0x21, 0x22] ∧ 15 < target) ∨ (kind ∈ [0x30, 0x31] ∧ 31 < target)) →
        exec (.headerFault bytes) s = .next dropped) ∧
  (∀ s : State, s.ilu.recordOpen = false →
    (∀ (c : Instr) (r : Record), recordOf c = some r → exec c s = .next s) ∧
      ∀ bytes : List Byte, exec (.headerFault bytes) s = .next s) ∧
  ∀ (s : State) (st : Stream) (raw : Carried) (p : Option ParityRead), s.ilu.recordOpen = true → s.flm.part = .operating →
    (s.stk.map[st]).role = .own → raw.payload.length ≤ 16384 →
    let closed : Ilu := { s.ilu with recordOpen := false }
    let faulted : State := { s with ilu := { closed with payloadFaults := satInc s.ilu.payloadFaults } }
    let orphaned : State := { s with ilu := closed, stk := { s.stk with orphans := satInc s.stk.orphans } }
    let unfit (len : Nat) := checkOk raw = false ∨ raw.payload.length ≠ len
    (unfit 6 → exec (.itemOpen st raw p) s = .next faulted) ∧
    (unfit 7 ∨ 1 < param raw.payload 0 1 → exec (.faceOpen st raw p) s = .next faulted) ∧
    (unfit 0 → exec (.itemClose st raw p) s = .next faulted ∧ exec (.itemCancel st raw p) s = .next faulted) ∧
    ((s.stk.contexts[st]).state = .idle ∨ (s.stk.contexts[st]).state = .discard → p ≠ some .context →
      exec (.strip st raw p) s = .next orphaned ∧
      (¬ unfit 7 → param raw.payload 0 1 ≤ 1 → exec (.faceOpen st raw p) s = .next orphaned) ∧
      (¬ unfit 0 → exec (.itemClose st raw p) s = .next orphaned ∧ exec (.itemCancel st raw p) s = .next orphaned))

/-- FILL, in STARTING and OPERATING: the monitor takes the payload bits in order, and beside it only the notice queue can change:
with link notices on, each change from HUNT to SYNC and from SYNC to HUNT on the way makes a LINK notice with the states and the
count, in order; with them off nothing (R4, R6, R10, R13). -/
def Obligations.FillFeedsMonitor : Prop :=
  ∀ (s : State) (target : Byte) (raw : Carried), s.flm.part = .starting ∨ s.flm.part = .operating →
    s.ilu.recordOpen = true → raw.payload.length ≤ 16384 →
    (∃ t, exec (.fill target raw) s = .next t ∧
      t.ilu = { s.ilu with recordOpen := false, monitor := (bitsOf raw.payload).foldl monitorBit s.ilu.monitor } ∧
      t = { s with ilu := t.ilu, dru := { s.dru with notices := t.dru.notices, lost := t.dru.lost } } ∧
      (s.sus.working.linkNotices = false ∨ t.ilu.monitor.state = s.ilu.monitor.state ∧ s.ilu.monitor.state = .down →
        t.dru = s.dru)) ∧
    exec (.fill target raw) s = .next { s with
      ilu := { s.ilu with recordOpen := false, monitor := (bitsOf raw.payload).foldl monitorBit s.ilu.monitor }
      dru := if s.sus.working.linkNotices then noticedAll (bitNotices s.ilu.monitor (bitsOf raw.payload)) s.dru else s.dru }

/-- ACTIVITY_TIMER_EXPIRY, the timer running: the monitor enters DOWN, keeping its count and predictor, and tells so where link notices
are on and it was not in DOWN. PACING_EIGHTH: the next eighth of eight begins, whatever the part state (R12, R13, R61). That the predictor is
kept in DOWN is the model's choice (log entry 28). -/
def Obligations.TimersExpire : Prop :=
  ∀ s : State,
    (s.flm.part = .starting ∨ s.flm.part = .operating → s.ilu.activityTimer = true →
      exec .activityTimerExpiry s = .next
        { s with
          ilu := { s.ilu with
                   activityTimer := false, monitor := { s.ilu.monitor with state := .down, position := 0, mismatches := 0 } }
          dru := if s.sus.working.linkNotices = true ∧ s.ilu.monitor.state ≠ .down then
              noticed { kind := .link, status := .done, subject := 0, tag := 0,
                        fields := [2, if s.ilu.monitor.state = .hunt then 0 else 1] ++ toBE 4 s.ilu.monitor.count.toNat } s.dru
            else s.dru }) ∧
    (s.flm.part ≠ .held →
      exec .pacingEighth s = .next { s with ilu := { s.ilu with eighth := Fin.ofNat 8 (s.ilu.eighth.val + 1) } })

/-- A record that passes, PRODUCED_RECORD, NOTICE, UNKNOWN_KIND and DIRECTIVE_OTHER_STATION among them, joins the tail of the
pass-through FIFO whole, in an entry that no held record uses; every other byte of face memory stays, and beside the FIFO
only the unknown-kind count moves. In BYPASS every record passes so, counted by no block (R4 to R7, R17). One that finds the link
between records in BYPASS, the hold input released and nothing else held, is sent at once (R15, R18, R207). Which unused entry it
is, and that the bytes after it in its last word stay, is the model's choice (log entries 9, 29). -/
def Obligations.PassedRecordJoinsFifo : Prop :=
  ∀ (s : State) (c : Instr) (r : Record), recordOf c = some r → headerFaulty r = false → s.elu.fifo.length < 64 →
    MemoryCanonical s → s.ilu.recordOpen = true →
    let e := freePassEntry s.elu
    let joined := s.elu.fifo ++ [{ entry := e, length := (recordBytes r).length }]
    (((s.flm.part = .starting ∨ s.flm.part = .operating) ∧ passesThrough s c = true) ∨
      (s.flm.part = .bypass ∧ (s.elu.link ≠ .between ∨ s.elu.holdInput = true)) →
    (∀ p ∈ s.elu.fifo, p.entry ≠ e) ∧
    ∃ t, exec c s = .next t ∧ Wrote s.fmc.mem t.fmc.mem (passEntryBase e) (recordBytes r) ∧
      t = { s with
        ilu := { s.ilu with
                 recordOpen := false
                 unknownKinds := match c with
                   | .unknownKind _ _ _ => if s.flm.part = .bypass then s.ilu.unknownKinds else satInc s.ilu.unknownKinds
                   | _ => s.ilu.unknownKinds }
        elu := { s.elu with fifo := joined }
        fmc := { s.fmc with mem := t.fmc.mem } }) ∧
    (s.flm.part = .bypass → s.elu.link = .between → s.elu.holdInput = false → s.dru.notices = [] → s.elu.fifo = [] →
      ∃ t, exec c s = .next t ∧ Wrote s.fmc.mem t.fmc.mem (passEntryBase e) (recordBytes r) ∧
        t = { s with
          ilu := { s.ilu with recordOpen := false }
          elu := { s.elu with fifo := joined, position := .passThrough, link := .sending .passThrough (recordBytes r) }
          fmc := { s.fmc with mem := t.fmc.mem } })

/-- A record that passes while 64 are held is dropped, and the overflow count rises by one (R17). -/
def Obligations.FullFifoDropsRecord : Prop :=
  ∀ (s : State) (c : Instr) (r : Record), recordOf c = some r → headerFaulty r = false → 64 ≤ s.elu.fifo.length → s.ilu.recordOpen = true →
    ((s.flm.part = .starting ∨ s.flm.part = .operating) ∧ passesThrough s c = true) ∨ s.flm.part = .bypass →
    exec c s = .next { s with
      ilu := { s.ilu with
               recordOpen := false
               unknownKinds := match c with
                 | .unknownKind _ _ _ => if s.flm.part = .bypass then s.ilu.unknownKinds else satInc s.ilu.unknownKinds
                 | _ => s.ilu.unknownKinds }
      elu := { s.elu with overflow := satInc s.elu.overflow } }

/-! ## The commands of the Stream Tracker -/

/-- ITEM_OPEN on an owned stream with no item open, the part running and an item record free: a record is created in the lowest free
entry with the profile, count and flags of R29, its entry joins the stream's release queue, the context takes it and the stall timer
starts, and the accepted count rises (R26, R29). That the lowest entry is taken is what section 2.3 says. An ITEM_OPEN that finds an item
open first sets IMPLICIT_CLOSE on it and closes it as an ITEM_CLOSE does: a pending role takes force, the item may be decided, and the
Release Engine, where idle, chooses the next release. It is then handled as one that finds the context in IDLE: opened, refused, or
passed (R24, R31, R143, R153). -/
def Obligations.ItemOpenOpensItem : Prop :=
  (∀ (s : State) (st : Stream) (rec : Carried) (ix : ItemIx), s.ilu.recordOpen = true →
    s.flm.part = .operating → (s.stk.map[st]).role = .own →
    ((s.stk.contexts[st]).state = .idle ∨ (s.stk.contexts[st]).state = .discard) → s.dru.quiesce = .running →
    checkOk rec = true → rec.payload.length = 6 → s.stk.items[ix] = none → (∀ j < ix, s.stk.items[j] ≠ none) →
    let declared := param rec.payload 4 1
    let number := param rec.payload 5 1
    let own : Bool := if h : number < 32 then (s.dru.profiles[number]).valid else false
    let profile := if h : number < 32 then (if own then (s.dru.profiles[number]).fields else (s.dru.profiles[0]).fields)
      else (s.dru.profiles[0]).fields
    exec (.itemOpen st rec none) s = .next
      { s with
        ilu := { s.ilu with recordOpen := false }
        stk := { s.stk with
          items := s.stk.items.set ix (some
            { stream := st, seq := BitVec.ofNat 32 (param rec.payload 0 4),
              declared := if declared = 0 then 1 else if declared = 1 then 1 else 2, profile := profile, state := .opened,
              faces := [],
              flags := (if own then 0 else 0x01) ||| (if declared = 1 ∨ declared = 2 then 0 else 0x10), outcome := none,
              overtaken := 0, pendingSent := false })
          contexts := s.stk.contexts.set st
            { state := .item, item := some ix, face := none, rows := 0, timer := some profile.stallTimeout }
          accepted := satInc s.stk.accepted }
        rel := { s.rel with queues := s.rel.queues.set st (s.rel.queues[st] ++ [.item ix false]) } }) ∧
  ∀ (s : State) (st : Stream) (raw : Carried) (ix : ItemIx), s.ilu.recordOpen = true → s.flm.part = .operating →
    (s.stk.map[st]).role = .own → hasOpenItem s st ix → s.stk.items[ix] ≠ none → checkOk raw = true →
    raw.payload.length = 6 →
    let marked : State := { s with stk := { s.stk with
      items := s.stk.items.set ix ((s.stk.items[ix]).map (fun r => { r with flags := r.flags ||| 0x02 })) } }
    ∃ u, exec (.itemClose st { tag := 0, payload := [], check := 0 } none) marked = .next u ∧
      (u.stk.contexts[st]).state = .idle ∧
      exec (.itemOpen st raw none) s = exec (.itemOpen st raw none) { u with ilu := s.ilu }

/-- ITEM_OPEN that cannot open an item, the part quiescing or quiesced or every item record in use: the context goes to DISCARD, the
lost count rises, and an ITEM LOST notice says why, QUIESCED before TABLE FULL (R30, R173). That the rows received stay as they were is the model's choice (log entry 25). -/
def Obligations.ItemOpenRefused : Prop :=
  ∀ (s : State) (st : Stream) (rec : Carried), s.ilu.recordOpen = true →
    s.flm.part = .operating → (s.stk.map[st]).role = .own →
    ((s.stk.contexts[st]).state = .idle ∨ (s.stk.contexts[st]).state = .discard) → checkOk rec = true →
    rec.payload.length = 6 → (s.dru.quiesce ≠ .running ∨ ∀ j : ItemIx, s.stk.items[j] ≠ none) →
    exec (.itemOpen st rec none) s = .next
      { s with
        ilu := { s.ilu with recordOpen := false }
        stk := { s.stk with
          contexts := s.stk.contexts.set st
            { s.stk.contexts[st] with state := .discard, item := none, face := none, timer := none }
          lost := satInc s.stk.lost }
        dru := noticed { kind := .itemLost, status := .done, subject := 0, tag := 0,
                         fields := [byteOf st.val] ++ toBE 4 (param rec.payload 0 4) ++
                           [if s.dru.quiesce = .running then 0 else 1] } s.dru }

/-- FACE_OPEN in an item that takes the face, a slot being free: the face record is made with its clamped resolution, kept and
output sizes and flags, takes the lowest FREE slot, which goes to FILLING with a scaling context bound, the context goes to FACE, the
stall timer restarts, and the pacing flag is evaluated (R28, R33, R34, R42, R49, R62, R66 to R68). While a face is being filled, a
FACE_OPEN first completes that face short, SHORT set and white rows handed over up to its kept height, and is then handled as one that
finds the context in ITEM (R35). -/
def Obligations.FaceOpenTakesSlot : Prop :=
  (∀ (s : State) (st : Stream) (rec : Carried) (ix : ItemIx) (r : ItemRecord) (k : Slot), s.ilu.recordOpen = true →
    s.flm.part = .operating → (s.stk.map[st]).role = .own → (s.stk.contexts[st]).state = .item →
    (s.stk.contexts[st]).item = some ix → s.stk.items[ix] = some r → checkOk rec = true → rec.payload.length = 7 →
    param rec.payload 0 1 ≤ 1 →
    let side : Side := if param rec.payload 0 1 = 0 then .front else .back
    let dpi := param rec.payload 1 2
    let width := param rec.payload 3 2
    let height := param rec.payload 5 2
    r.faces.length < r.declared → (∀ f ∈ r.faces, f.side ≠ side) → 64 ≤ width → width ≤ 4096 → 32 ≤ height →
    s.fmc.slots[k] = .free → (∀ j < k, s.fmc.slots[j] ≠ .free) →
    let clamped := max 100 (min 400 dpi)
    let S := scaleStep clamped r.profile.outDpi
    let keptWidth := min width 2560
    let keptHeight := min height 1280
    let free := s.fmc.slots.count .free - 1
    exec (.faceOpen st rec none) s = .next
      { s with
        ilu := { s.ilu with recordOpen := false }
        stk := { s.stk with
          items := s.stk.items.set ix (some { r with faces := r.faces ++
            [{ side := side, captureDpi := clamped, declWidth := width, declHeight := height, keptWidth := keptWidth,
               keptHeight := keptHeight, outWidth := outputSize keptWidth S, outHeight := outputSize keptHeight S,
               slot := some k, state := .filling, meanGrey := 0, blackCount := 0, blackRatio := 0, codedBytes := 0,
               attempts := 0, finalK := 0, finalL := 0,
               flags := flagIf (clamped != dpi) flagResClamped |||
                 flagIf (decide (2560 < width) || decide (1280 < height)) flagCropped |||
                 flagIf (decide (clamped ≤ r.profile.outDpi)) flagNotReduced,
               disposition := none }] })
          contexts := s.stk.contexts.set st
            { state := .face, item := some ix, face := some r.faces.length, rows := 0, timer := some r.profile.stallTimeout } }
        scu := s.scu.set k (some
          { step := S, outWidth := outputSize keptWidth S, outHeight := outputSize keptHeight S, keptWidth := keptWidth,
            keptHeight := keptHeight, toneSlot := r.profile.toneSlot, rowsTaken := 0, lineRow := 0,
            line := List.replicate (outputSize keptWidth S) 0, lastRow := none, greySum := 0, waiting := [],
            inputEnded := false })
        fmc := { s.fmc with
                 slots := s.fmc.slots.set k .filling
                 pacing := if s.fmc.pacing then decide (free < s.fmc.mark + 4) else decide (free ≤ s.fmc.mark) } }) ∧
  ∀ (s : State) (st : Stream) (raw : Carried) (ix : ItemIx) (r : ItemRecord) (n : Nat) (f : FaceRecord) (k : Slot) (c : ScaleCtx),
    s.ilu.recordOpen = true → s.flm.part = .operating → (s.stk.map[st]).role = .own → (s.stk.contexts[st]).state = .face →
    (s.stk.contexts[st]).item = some ix → (s.stk.contexts[st]).face = some n → s.stk.items[ix] = some r →
    r.faces[n]? = some f → f.slot = some k → s.scu[k] = some c → checkOk raw = true → raw.payload.length = 7 →
    param raw.payload 0 1 ≤ 1 →
    exec (.faceOpen st raw none) s = exec (.faceOpen st raw none)
      { s with
        stk := { s.stk with
          items := s.stk.items.set ix
            (some { r with faces := r.faces.set n { f with flags := f.flags ||| flagShort } })
          contexts := s.stk.contexts.set st { s.stk.contexts[st] with state := .item, rows := f.keptHeight } }
        scu := s.scu.set k (some { c with
          waiting := c.waiting ++ List.replicate (f.keptHeight - (s.stk.contexts[st]).rows) .white, inputEnded := true }) }

/-- FACE_OPEN that is not filled: an extra face sets EXTRA_FACE and leaves the item without a current face; a face of bad geometry or
with no slot free is recorded FINAL with that disposition. The stall timer restarts in each case (R32 to R34, R42, R49). That an extra or refused face leaves the
rows received as they were is the model's choice (log entry 25). -/
def Obligations.FaceOpenNotFilled : Prop :=
  ∀ (s : State) (st : Stream) (rec : Carried) (ix : ItemIx) (r : ItemRecord), s.ilu.recordOpen = true →
    s.flm.part = .operating → (s.stk.map[st]).role = .own → (s.stk.contexts[st]).state = .item →
    (s.stk.contexts[st]).item = some ix → s.stk.items[ix] = some r → checkOk rec = true → rec.payload.length = 7 →
    param rec.payload 0 1 ≤ 1 →
    let side : Side := if param rec.payload 0 1 = 0 then .front else .back
    let dpi := param rec.payload 1 2
    let width := param rec.payload 3 2
    let height := param rec.payload 5 2
    let extra := r.declared ≤ r.faces.length ∨ ∃ f ∈ r.faces, f.side = side
    let badSize := width < 64 ∨ 4096 < width ∨ height < 32
    let context := { s.stk.contexts[st] with timer := some r.profile.stallTimeout }
    (extra →
      exec (.faceOpen st rec none) s = .next
        { s with
          ilu := { s.ilu with recordOpen := false }
          stk := { s.stk with
            items := s.stk.items.set ix (some { r with flags := r.flags ||| 0x08 })
            contexts := s.stk.contexts.set st { context with face := none } } }) ∧
    (¬ extra → badSize ∨ (∀ k : Slot, s.fmc.slots[k] ≠ .free) →
      ∃ f : FaceRecord,
        exec (.faceOpen st rec none) s = .next
          { s with
            ilu := { s.ilu with recordOpen := false }
            stk := { s.stk with
              items := s.stk.items.set ix (some { r with faces := r.faces ++ [f] })
              contexts := s.stk.contexts.set st { context with face := some r.faces.length } } } ∧
        f.state = .final ∧ f.slot = none ∧ f.outWidth = 0 ∧ f.outHeight = 0 ∧ f.side = side ∧ f.declWidth = width ∧
        f.declHeight = height ∧ f.captureDpi = max 100 (min 400 dpi) ∧
        (badSize → f.disposition = some .refusedGeometry) ∧ (¬ badSize → f.disposition = some .refusedNoSlot))

/-- STRIP for a face being filled. Sound: its rows up to the kept height, each cut to the kept width, are handed to the Scaling Unit in
order; EXCESS_ROWS is set when the rows received pass the declared height; the input is complete, and the context back in ITEM,
when they reach the kept height; the stall timer restarts (R36, R38, R42). Not sound: white rows take their place, as many as R37
gives, and DATA_LOSS is set. A STRIP in ITEM restarts the timer; with no current face or a refused one nothing else; with a face whose
input is complete its rows are counted and may set EXCESS_ROWS, and no row is handed over (R39). -/
def Obligations.StripHandsRows : Prop :=
  (∀ (s : State) (st : Stream) (rec : Carried) (ix : ItemIx) (r : ItemRecord) (n : Nat) (f : FaceRecord) (k : Slot) (c : ScaleCtx)
    (rows : Nat) (samples : List Byte),
    s.ilu.recordOpen = true →
    s.flm.part = .operating → (s.stk.map[st]).role = .own → (s.stk.contexts[st]).state = .face →
    (s.stk.contexts[st]).item = some ix → (s.stk.contexts[st]).face = some n → s.stk.items[ix] = some r →
    r.faces[n]? = some f → f.slot = some k → s.scu[k] = some c → checkOk rec = true →
    rec.payload = BitVec.ofNat 8 rows :: samples → 1 ≤ rows → rows ≤ 16 → samples.length = rows * f.declWidth →
    rec.payload.length ≤ 16384 →
    let before := (s.stk.contexts[st]).rows
    let complete := f.keptHeight ≤ before + rows
    let filled := { f with flags := f.flags ||| flagIf (decide (f.declHeight < before + rows)) flagExcessRows }
    exec (.strip st rec none) s = .next
      { s with
        ilu := { s.ilu with recordOpen := false }
        stk := { s.stk with
          items := s.stk.items.set ix (some { r with faces := r.faces.set n filled })
          contexts := s.stk.contexts.set st
            { s.stk.contexts[st] with
              state := if complete then .item else .face, rows := before + rows, timer := some r.profile.stallTimeout } }
        scu := s.scu.set k (some { c with
          waiting := c.waiting ++ ((List.range rows).map (fun i =>
            InputRow.samples (((samples.drop (i * f.declWidth)).take f.declWidth).take f.keptWidth))).take (f.keptHeight - before)
          inputEnded := c.inputEnded || decide complete }) }) ∧
  ∀ (s : State) (st : Stream) (raw : Carried) (ix : ItemIx) (r : ItemRecord), s.ilu.recordOpen = true →
    s.flm.part = .operating → (s.stk.map[st]).role = .own → (s.stk.contexts[st]).item = some ix → s.stk.items[ix] = some r →
    raw.payload.length ≤ 16384 →
    let before := (s.stk.contexts[st]).rows
    let context := { s.stk.contexts[st] with timer := some r.profile.stallTimeout }
    (∀ n f k c, (s.stk.contexts[st]).state = .face → (s.stk.contexts[st]).face = some n → r.faces[n]? = some f →
      f.slot = some k → s.scu[k] = some c → ¬ soundStrip raw f.declWidth →
      let rows := stripCount raw f.declWidth
      let complete := f.keptHeight ≤ before + rows
      let marked := { f with
        flags := f.flags ||| flagDataLoss ||| (if 0 < rows ∧ f.declHeight < before + rows then flagExcessRows else 0) }
      exec (.strip st raw none) s = .next
        { s with
          ilu := { s.ilu with recordOpen := false }
          stk := { s.stk with
            items := s.stk.items.set ix (some { r with faces := r.faces.set n marked })
            contexts := s.stk.contexts.set st
              { context with state := if complete then .item else .face, rows := before + rows } }
          scu := s.scu.set k (some { c with
            waiting := c.waiting ++ List.replicate (min rows (f.keptHeight - before)) .white
            inputEnded := c.inputEnded || decide complete }) }) ∧
    ((s.stk.contexts[st]).state = .item →
      ((s.stk.contexts[st]).face = none ∨ (∃ n f, (s.stk.contexts[st]).face = some n ∧ r.faces[n]? = some f ∧
          (f.disposition = some .refusedGeometry ∨ f.disposition = some .refusedNoSlot)) →
        exec (.strip st raw none) s = .next
          { s with
            ilu := { s.ilu with recordOpen := false }
            stk := { s.stk with contexts := s.stk.contexts.set st context } }) ∧
      ∀ n f, (s.stk.contexts[st]).face = some n → r.faces[n]? = some f → f.disposition ≠ some .refusedGeometry →
        f.disposition ≠ some .refusedNoSlot →
        let rows := stripCount raw f.declWidth
        let marked := { f with
          flags := f.flags ||| (if 0 < rows ∧ f.declHeight < before + rows then flagExcessRows else 0) }
        exec (.strip st raw none) s = .next
          { s with
            ilu := { s.ilu with recordOpen := false }
            stk := { s.stk with
              items := s.stk.items.set ix (some { r with faces := r.faces.set n marked })
              contexts := s.stk.contexts.set st { context with rows := before + rows } } })

/-- ITEM_CLOSE, no face being filled: the context is IDLE with its timer stopped, MISSING_FACE is set where faces are
missing, and the item is CLOSED, or DECIDED with its outcome where every face is FINAL; a pending role takes force, with a ROLE
APPLIED notice of its tag. With a release in progress nothing else changes; with the Release Engine idle it then chooses the next
release, as SegmentComposed says of relTry (R24, R40, R143, R144, R153). That the rows received stay as they were is the model's choice
(log entry 25). -/
def Obligations.ItemCloseClosesItem : Prop :=
  ∀ (s : State) (st : Stream) (rec : Carried) (ix : ItemIx) (r : ItemRecord), s.ilu.recordOpen = true →
    s.flm.part = .operating → (s.stk.map[st]).role = .own →
    (s.stk.contexts[st]).state = .item → (s.stk.contexts[st]).item = some ix → s.stk.items[ix] = some r → rec.payload = [] →
    let r' := { r with flags := r.flags ||| (if r.faces.length < r.declared then 0x04 else 0) }
    let closed : ItemRecord :=
      if ∀ f ∈ r.faces, f.state = .final then { r' with state := .decided, outcome := some (itemOutcome r') }
      else { r' with state := .closed }
    let stk : Stk :=
      { s.stk with
        items := s.stk.items.set ix (some closed)
        contexts := s.stk.contexts.set st
          { s.stk.contexts[st] with state := .idle, item := none, face := none, timer := none } }
    let ended : State := { s with ilu := { s.ilu with recordOpen := false }, stk := stk }
    let applied : State := match (s.stk.map[st]).pending with
      | none => ended
      | some (role, tag) =>
        { ended with
          stk := { stk with map := s.stk.map.set st { role := role, pending := none } }
          dru := noticed { kind := .roleApplied, status := .done, subject := 0, tag := tag,
                           fields := [byteOf st.val, roleByte role] } s.dru }
    ((s.stk.map[st]).pending = none →
      ∃ t, exec (.itemClose st rec none) s = .next t ∧ t.stk.contexts = stk.contexts ∧ t.scu = s.scu ∧ t.cnv = s.cnv ∧
        t.fmc = s.fmc ∧ t.elu = s.elu ∧ t.dru = s.dru ∧ t.sus = s.sus ∧ t.flm = s.flm) ∧
    ((s.stk.map[st]).pending = none → s.rel.release ≠ none → exec (.itemClose st rec none) s = .next ended) ∧
    (s.rel.release ≠ none → exec (.itemClose st rec none) s = .next applied) ∧
    exec (.itemClose st rec none) s = .next (relTry none applied)

/-- ITEM_CANCEL of an open item, and STALL_EXPIRY of a running timer, a record being received or not: the context goes to IDLE, or to
DISCARD at a stall, with no item and its timer stopped; the item becomes DECIDED with outcome CANCELLED or STALLED, and a pending role
takes force with a ROLE APPLIED notice. With a release in progress nothing follows; with the Release Engine idle it then chooses the
next release, as SegmentComposed says of relTry (R24, R41 to R43, R146, R153). Faces that hold slots are handed off: not yet FINAL they become
ABANDONED; a FILLING, READY or CODED slot goes to SCRUBBING in face-list order, out of the ready queue, its scaling
context gone; a face being converted sets the engine's abandon mark and keeps its slot (R41, R53, R79, R94), and where the engine is
settling it, or stands between two attempts, the engine stops at once, as engineStopped says, and takes the head of the ready queue, as
LastRowMakesFaceReady says of cnvTake (R51, R82, R95, R96, R128, R142). That the engine, while rows
remain or the last word is being written, always stands within a row or that write, so that an abort there sets the mark alone and the
engine goes on to the next row boundary, is the model's reading (log entry 14). That the rows received stay is the model's
choice (log entry 25). -/
def Obligations.CancelAndStallAbortItem : Prop :=
  ∀ (s : State) (st : Stream) (ix : ItemIx) (r : ItemRecord), s.flm.part = .operating →
    ((s.stk.contexts[st]).state = .item ∨ (s.stk.contexts[st]).state = .face) → (s.stk.contexts[st]).item = some ix →
    s.stk.items[ix] = some r →
    let context (x : CtxState) : StreamCtx := { s.stk.contexts[st] with state := x, item := none, face := none, timer := none }
    let decided (x : CtxState) (o : ItemOutcome) (faces : List FaceRecord) : Stk :=
      { s.stk with
        items := s.stk.items.set ix (some { r with state := .decided, outcome := some o, faces := faces })
        contexts := s.stk.contexts.set st (context x) }
    let applied (t : State) : State := match (s.stk.map[st]).pending with
      | none => t
      | some (role, tag) =>
        { t with
          stk := { t.stk with map := s.stk.map.set st { role := role, pending := none } }
          dru := noticed { kind := .roleApplied, status := .done, subject := 0, tag := tag,
                           fields := [byteOf st.val, roleByte role] } t.dru }
    let received (raw : Carried) : Prop := s.ilu.recordOpen = true ∧ (s.stk.map[st]).role = .own ∧ raw.payload = []
    let cancelled (t : State) : Prop := ∀ raw, received raw →
      exec (.itemCancel st raw none) s = .next (relTry none { t with ilu := { s.ilu with recordOpen := false } })
    let stalled (t : State) : Prop := (s.stk.contexts[st]).timer ≠ none →
      exec (.stallExpiry st none) s = .next (relTry none t)
    (∀ raw, received raw →
      ∃ t, exec (.itemCancel st raw none) s = .next t ∧ t.stk.contexts = s.stk.contexts.set st (context .idle)) ∧
    ((s.stk.contexts[st]).timer ≠ none →
      ∃ t, exec (.stallExpiry st none) s = .next t ∧ t.stk.contexts = s.stk.contexts.set st (context .discard)) ∧
    ((∀ f ∈ r.faces, f.state = .final ∧ f.slot = none) → s.cnv = none →
      cancelled (applied { s with stk := decided .idle .cancelled r.faces }) ∧
        stalled (applied { s with stk := decided .discard .stalled r.faces })) ∧
    ((r.faces.filterMap FaceRecord.slot).Nodup → s.fmc.ready.Nodup →
      let gone := r.faces.filterMap (handedOff s)
      let handed (x : CtxState) (o : ItemOutcome) : State := applied
        { s with
          stk := decided x o (r.faces.map (aborted s))
          scu := Vector.ofFn (fun k : Fin 48 =>
            if ∃ f ∈ r.faces, f.state = .filling ∧ f.slot = some k then none else s.scu[k])
          fmc := { s.fmc with
            slots := Vector.ofFn (fun k : Fin 48 => if k ∈ gone then .scrubbing else s.fmc.slots[k])
            scrubOrder := s.fmc.scrubOrder ++ gone
            ready := s.fmc.ready.filter (fun k => ¬ ∃ f ∈ r.faces, f.state = .ready ∧ f.slot = some k) } }
      ((∀ w, s.cnv = some w → w.item ≠ ix ∧ (w.abandonMark = false ∨ w.phase = .rows ∨ w.phase = .lastWord)) →
        cancelled (handed .idle .cancelled) ∧ stalled (handed .discard .stalled)) ∧
      ∀ w f, s.cnv = some w → w.item = ix → w.abandonMark = false → r.faces[w.face]? = some f → f.state = .converting →
        f.slot = some w.slot →
        (w.phase = .rows ∨ w.phase = .lastWord →
          cancelled { handed .idle .cancelled with cnv := some { w with abandonMark := true } } ∧
            stalled { handed .discard .stalled with cnv := some { w with abandonMark := true } }) ∧
        (w.phase = .boundary ∨ (∃ x d, w.phase = .evaluating x d) →
          let stopped (x : CtxState) (o : ItemOutcome) : State := cnvTake none (engineStopped w
            { r with state := .decided, outcome := some o, faces := r.faces.map (aborted s) } (handed x o))
          cancelled (stopped .idle .cancelled) ∧ stalled (stopped .discard .stalled)))

/-- A face being filled at an ITEM_CLOSE is completed short: SHORT is set, the white rows up to the kept height are handed to the Scaling
Unit and its input ends there; a pending role takes force, with a ROLE APPLIED notice of its tag; the Release Engine, if idle, then
chooses, as SegmentComposed says of relTry (R24, R35, R40, R73, R153). -/
def Obligations.OpenFaceCompletedShort : Prop :=
  ∀ (s : State) (st : Stream) (rec : Carried) (ix : ItemIx) (r : ItemRecord) (n : Nat) (f : FaceRecord) (k : Slot) (c : ScaleCtx),
    s.ilu.recordOpen = true →
    s.flm.part = .operating → (s.stk.map[st]).role = .own →
    (s.stk.contexts[st]).state = .face → (s.stk.contexts[st]).item = some ix → (s.stk.contexts[st]).face = some n →
    s.stk.items[ix] = some r → r.faces[n]? = some f → f.state = .filling → f.slot = some k → s.scu[k] = some c →
    rec.payload = [] →
    let short := { f with flags := f.flags ||| flagShort }
    let missing : BitVec 8 := if r.faces.length < r.declared then 0x04 else 0
    let closed : State :=
      { s with
        ilu := { s.ilu with recordOpen := false }
        stk := { s.stk with
          items := s.stk.items.set ix
            (some { r with faces := r.faces.set n short, flags := r.flags ||| missing, state := .closed })
          contexts := s.stk.contexts.set st
            { s.stk.contexts[st] with state := .idle, item := none, face := none, rows := f.keptHeight, timer := none } }
        scu := s.scu.set k (some { c with
          waiting := c.waiting ++ List.replicate (f.keptHeight - (s.stk.contexts[st]).rows) .white, inputEnded := true }) }
    let applied : State := match (s.stk.map[st]).pending with
      | none => closed
      | some (role, tag) =>
        { closed with
          stk := { closed.stk with map := s.stk.map.set st { role := role, pending := none } }
          dru := noticed { kind := .roleApplied, status := .done, subject := 0, tag := tag,
                           fields := [byteOf st.val, roleByte role] } s.dru }
    exec (.itemClose st rec none) s = .next (relTry none applied)

/-! ## The directives -/

/-- The checks made before a directive's own, in the order of R168, refuse it with an ANSWER and no other effect: a wrong payload check;
a code of no directive (DIRECTIVE_UNKNOWN_CODE); a length other than the code's. In STARTING the ANSWER is STARTING, and the directive
is passed too (R5, R6, R167, R168). A directive to station 31 has in OPERATING the effect that the same directive to this station has, and is
passed (R5, R17). That it acts before its copy joins the FIFO, which unused entry of the FIFO a passed copy takes, and that the bytes after it in
its last word stay, are the model's choices (log entries 10, 9, 29). -/
def Obligations.DirectiveChecksInOrder : Prop :=
  (∀ (s : State) (c : Instr) (r : Record), recordOf c = some r → r.kind = 0x30 → r.target.toNat = s.sus.working.station →
    s.ilu.recordOpen = true →
    s.sus.working.station ≤ 30 → r.body.payload.length ≤ 16384 → s.dru.notices.length < 16 →
    let code := r.body.payload.headD 0
    let refuse (status : Status) (fields : List Byte) : Notice := answered code r.body.tag status fields
    (s.flm.part = .operating →
      (checkOk r.body = false → exec c s = .next (queued [refuse .badCheck []] s)) ∧
      (checkOk r.body = true → directiveLength code.toNat = none → exec c s = .next (queued [refuse .unknown []] s)) ∧
      (checkOk r.body = true → ∀ n, directiveLength code.toNat = some n → r.body.payload.length ≠ n →
        exec c s = .next (queued [refuse .badLength (toBE 2 r.body.payload.length)] s))) ∧
    (s.flm.part = .starting →
      ∃ t, exec c s = .next t ∧
        t.dru = { s.dru with
          notices := s.dru.notices ++ [refuse (if checkOk r.body then .starting else .badCheck) []] } ∧
        t.stk = s.stk ∧ t.sus = s.sus ∧ t.rel = s.rel ∧ t.flm = s.flm ∧
        (s.elu.fifo.length < 64 → MemoryCanonical s →
          t.elu = { s.elu with
            fifo := s.elu.fifo ++ [{ entry := freePassEntry s.elu, length := (recordBytes r).length }] } ∧
          Wrote s.fmc.mem t.fmc.mem (passEntryBase (freePassEntry s.elu)) (recordBytes r)))) ∧
  ∀ (s : State) (c : Instr) (r : Record) (own : Fin 32), recordOf c = some r → r.kind = 0x30 → r.target.toNat = 31 →
    own.val = s.sus.working.station → own.val ≤ 30 → r.body.payload.length ≤ 16384 → s.ilu.recordOpen = true →
    s.flm.part = .operating → s.elu.link ≠ .between →
    ∃ u, exec (readdressed own c) s = .next u ∧
      (u.elu.fifo.length < 64 → MemoryCanonical u →
        ∃ t, exec c s = .next t ∧ Wrote u.fmc.mem t.fmc.mem (passEntryBase (freePassEntry u.elu)) (recordBytes r) ∧
          t = { u with
            elu := { u.elu with
              fifo := u.elu.fifo ++ [{ entry := freePassEntry u.elu, length := (recordBytes r).length }] }
            fmc := { u.fmc with mem := t.fmc.mem } }) ∧
      (64 ≤ u.elu.fifo.length → exec c s = .next { u with elu := { u.elu with overflow := satInc u.elu.overflow } })

/-- STATUS_QUERY answers DONE with the 56-byte report as the counts stood, its fields in the order of R174; with the clear option the ten
counts and the mismatch count become 0 after it, and nothing else changes (R174, R175). An option above 1 is answered RANGE with offset 1
(R169). With the notice queue full the ANSWER is lost and counted, and the clear is not made (R171, R172, R175). -/
def Obligations.StatusQueryReports : Prop :=
  (∀ (s : State) (d : Directive) (v : Byte), d.params = [v] →
    (Addressed d 0x01 1 s → 1 < v.toNat →
      exec (.statusQuery d) s = .next (queued [answered 0x01 d.tag .range (toBE 2 1)] s)) ∧
    (Addressed d 0x01 0 s → s.dru.notices.length = 16 →
      exec (.statusQuery d) s = .next { s with
        ilu := { s.ilu with recordOpen := false }, dru := { s.dru with lost := satInc s.dru.lost } })) ∧
  ∀ (s : State) (d : Directive) (v : Byte), Addressed d 0x01 1 s → d.params = [v] → v.toNat ≤ 1 →
    let ns := s.dru.notices ++ [answered 0x01 d.tag .done (statusReport s)]
    (statusReport s).length = 56 ∧
    (v = 0 → exec (.statusQuery d) s = .next (queued [answered 0x01 d.tag .done (statusReport s)] s)) ∧
    (v = 1 → exec (.statusQuery d) s = .next
      { s with
        ilu := { s.ilu with
                 recordOpen := false, headerFaults := 0, payloadFaults := 0, unknownKinds := 0
                 monitor := { s.ilu.monitor with count := 0 } }
        elu := { s.elu with overflow := 0 }
        stk := { s.stk with orphans := 0, accepted := 0, lost := 0 }
        fmc := { s.fmc with corrected := 0, uncorrectable := 0 }
        dru := { s.dru with notices := ns, lost := 0 } }) ∧
    (s.flm.latch = none →
      statusReport s =
        [1, 0,
         match s.dru.quiesce with
         | .running => 0
         | .quiescing => 1
         | .quiesced => 2,
         BitVec.ofNat 8 s.dru.owed.length, BitVec.ofNat 8 s.sus.working.station,
         match s.ilu.monitor.state with
         | .hunt => 0
         | .sync => 1
         | .down => 2] ++
        toBE 4 s.ilu.monitor.count.toNat ++
        [BitVec.ofNat 8 (s.fmc.slots.count .free), BitVec.ofNat 8 (s.stk.items.count none),
         BitVec.ofNat 8 s.fmc.ready.length, if s.fmc.pacing then 1 else 0, BitVec.ofNat 8 s.dru.duty,
         BitVec.ofNat 8 s.fmc.mark] ++
        [s.ilu.headerFaults, s.ilu.payloadFaults, s.ilu.unknownKinds, s.elu.overflow, s.stk.orphans, s.stk.accepted,
         s.stk.lost, s.fmc.corrected, s.fmc.uncorrectable, s.dru.lost].flatMap (fun n => toBE 4 n.toNat))

/-- WRITE_PROFILE with every field in the range of R176 makes its entry valid with the values it carries, and no other entry changes;
out of range it is answered RANGE with the first bad offset. READ_PROFILE answers with the entry's number, flag and fields; a number above 31
is answered RANGE with offset 1 (R169, R176 to R178). -/
def Obligations.ProfileDirectives : Prop :=
  ∀ (s : State) (d : Directive),
    (Addressed d 0x02 1 s → d.params.length = 30 →
      let p := 0x02 :: d.params
      (firstBad (profileFields s.dru p) = none →
        param p 1 1 < 32 ∧ exec (.writeProfile d) s = .next
          { s with
            ilu := { s.ilu with recordOpen := false }
            dru := { s.dru with
              profiles := s.dru.profiles.set (Fin.ofNat 32 (param p 1 1)) { valid := true, fields := profileOf p }
              notices := s.dru.notices ++ [answered 0x02 d.tag .done []] } }) ∧
      ∀ o, firstBad (profileFields s.dru p) = some o →
        exec (.writeProfile d) s = .next (queued [answered 0x02 d.tag .range (toBE 2 o)] s)) ∧
    (∀ n : Fin 32, Addressed d 0x03 1 s → d.params = [byteOf n.val] →
      exec (.readProfile d none) s = .next
        (queued [answered 0x03 d.tag .done
          ([byteOf n.val, byteOfBool (s.dru.profiles[n]).valid] ++ profileBytes (s.dru.profiles[n]).fields)] s)) ∧
    ∀ v : Byte, Addressed d 0x03 1 s → d.params = [v] → 31 < v.toNat →
      exec (.readProfile d none) s = .next (queued [answered 0x03 d.tag .range (toBE 2 1)] s)

/-- LOAD_CODE_TABLE, LOAD_TONE_CURVE and LOAD_RULE, the part QUIESCED and the payload in range, replace their slot or entry whole and
are answered DONE; a code table that fails the sum check is refused and the slot stays; outside QUIESCED each is refused; the first field out
of range, an entry of a code table being one, is answered RANGE with its offset (R21, R102, R103, R132, R169, R179, R180). -/
def Obligations.TableLoads : Prop :=
  ∀ (s : State) (d : Directive),
    (Addressed d 0x04 1 s → d.params.length = 637 →
      let p := 0x04 :: d.params
      (s.dru.quiesce = .quiesced → ∀ o, firstBad (codeTableFields p) = some o →
        exec (.loadCodeTable d) s = .next (queued [answered 0x04 d.tag .range (toBE 2 o)] s)) ∧
      (s.dru.quiesce = .quiesced → firstBad (codeTableFields p) = none →
        exec (.loadCodeTable d) s = .next (if sumCheck (codeEntriesOf p) then
            { s with
              ilu := { s.ilu with recordOpen := false }
              dru := { s.dru with
                codeSlots := s.dru.codeSlots.set (Fin.ofNat 3 (param p 1 1 - 1)) { valid := true, entries := codeEntriesOf p }
                notices := s.dru.notices ++ [answered 0x04 d.tag .done []] } }
          else queued [answered 0x04 d.tag .tableInvalid []] s)) ∧
      (s.dru.quiesce ≠ .quiesced → exec (.loadCodeTable d) s = .next (queued [answered 0x04 d.tag .notQuiesced []] s))) ∧
    (∀ (slot : Byte) (curve : List Byte), Addressed d 0x05 1 s → d.params = slot :: curve → curve.length = 256 →
      (s.dru.quiesce = .quiesced → slot.toNat = 0 ∨ 7 < slot.toNat →
        exec (.loadToneCurve d) s = .next (queued [answered 0x05 d.tag .range (toBE 2 1)] s)) ∧
      (s.dru.quiesce = .quiesced → 1 ≤ slot.toNat → slot.toNat ≤ 7 →
        exec (.loadToneCurve d) s = .next
          { s with
            ilu := { s.ilu with recordOpen := false }
            dru := { s.dru with
              toneSlots := s.dru.toneSlots.set (Fin.ofNat 7 (slot.toNat - 1)) { valid := true, curve := curve }
              notices := s.dru.notices ++ [answered 0x05 d.tag .done []] } }) ∧
      (s.dru.quiesce ≠ .quiesced → exec (.loadToneCurve d) s = .next (queued [answered 0x05 d.tag .notQuiesced []] s))) ∧
    (Addressed d 0x06 1 s → d.params.length = 12 →
      let p := 0x06 :: d.params
      (s.dru.quiesce = .quiesced → ∀ o, firstBad (ruleFields p) = some o →
        exec (.loadRule d) s = .next (queued [answered 0x06 d.tag .range (toBE 2 o)] s)) ∧
      (s.dru.quiesce = .quiesced → firstBad (ruleFields p) = none →
        exec (.loadRule d) s = .next
          { s with
            ilu := { s.ilu with recordOpen := false }
            dru := { s.dru with
              rules := s.dru.rules.set (Fin.ofNat 32 (param p 1 1)) (ruleOf p)
              notices := s.dru.notices ++ [answered 0x06 d.tag .done []] } }) ∧
      (s.dru.quiesce ≠ .quiesced → exec (.loadRule d) s = .next (queued [answered 0x06 d.tag .notQuiesced []] s)))

/-- SET_STREAM_ROLE with no item open sets the role at once, answered DONE and followed by ROLE APPLIED; with an item open it is stored as
pending with its tag and answered ACCEPTED (R23, R181). FENCE joins the stream's release queue and is answered ACCEPTED; with
no unreleased entry ahead it passes at once, with a FENCE PASSED notice; with two markers held it is BUSY (R149, R150, R182). An entry whose
release has completed holds no marker back, an unreleased one behind it does; a notice that finds the queue full is lost and counted, the
marker joining or passing all the same (R150, R171, R172). The Release
Engine, if idle, then chooses, as SegmentComposed says of relTry (R153). A stream above 15 or a role above 1 is answered RANGE with its
offset (R169). -/
def Obligations.RoleAndFenceDirectives : Prop :=
  (∀ (s : State) (d : Directive) (stream : Byte),
    (Addressed d 0x0C 1 s → d.params = [stream] → 15 < stream.toNat →
      exec (.fence d) s = .next (queued [answered 0x0C d.tag .range (toBE 2 1)] s)) ∧
    ∀ role : Byte, Addressed d 0x07 1 s → d.params = [stream, role] → 15 < stream.toNat ∨ 1 < role.toNat →
      exec (.setStreamRole { d with parity := none }) s =
        .next (queued [answered 0x07 d.tag .range (toBE 2 (if 15 < stream.toNat then 1 else 2))] s)) ∧
  ∀ (s : State) (d : Directive) (st : Stream),
    (∀ role : Role, Addressed d 0x07 2 s → d.params = [byteOf st.val, roleByte role] →
      ((s.stk.contexts[st]).state = .idle ∨ (s.stk.contexts[st]).state = .discard →
        exec (.setStreamRole { d with parity := none }) s = .next
          { s with
            ilu := { s.ilu with recordOpen := false }
            stk := { s.stk with map := s.stk.map.set st { role := role, pending := none } }
            dru := { s.dru with
              notices := s.dru.notices ++
                [answered 0x07 d.tag .done [],
                 { kind := .roleApplied, status := .done, subject := 0, tag := d.tag,
                   fields := [byteOf st.val, roleByte role] }] } }) ∧
      ((s.stk.contexts[st]).state = .item ∨ (s.stk.contexts[st]).state = .face →
        exec (.setStreamRole { d with parity := none }) s = .next
          { s with
            ilu := { s.ilu with recordOpen := false }
            stk := { s.stk with map := s.stk.map.set st { s.stk.map[st] with pending := some (role, d.tag) } }
            dru := { s.dru with notices := s.dru.notices ++ [answered 0x07 d.tag .accepted []] } })) ∧
    (Addressed d 0x0C 0 s → d.params = [byteOf st.val] → fenceCount s.rel.queues[st] < 2 →
      let after := fencesPassed (s.rel.queues[st] ++ [.fence d.tag])
      let passed (tag : Tag) : Notice :=
        { kind := .fencePassed, status := .done, subject := 0, tag := tag, fields := [byteOf st.val] }
      exec (.fence d) s = .next (relTry none
        { s with
          ilu := { s.ilu with recordOpen := false }
          rel := { s.rel with queues := s.rel.queues.set st after.1 }
          dru := noticedAll (answered 0x0C d.tag .accepted [] :: after.2.map passed) s.dru })) ∧
    (Addressed d 0x0C 2 s → d.params = [byteOf st.val] →
      let q := s.rel.queues[st]
      (2 ≤ fenceCount q → exec (.fence d) s = .next (queued [answered 0x0C d.tag .busy []] s)) ∧
      (fenceCount q < 2 → (∃ ix, q.head? = some (.item ix false)) →
        exec (.fence d) s = .next (relTry none
          { s with
            ilu := { s.ilu with recordOpen := false }
            rel := { s.rel with queues := s.rel.queues.set st (q ++ [.fence d.tag]) }
            dru := { s.dru with notices := s.dru.notices ++ [answered 0x0C d.tag .accepted []] } })) ∧
      ((∀ e ∈ q, ∃ ix, e = .item ix true) →
        exec (.fence d) s = .next (relTry none
          (queued [answered 0x0C d.tag .accepted [],
            { kind := .fencePassed, status := .done, subject := 0, tag := d.tag, fields := [byteOf st.val] }] s))))

/-- QUIESCE with the item table empty grants at once; with items it enters QUIESCING and owes the grant, up to four, then BUSY. RESUME
returns to RUNNING and withdraws every owed grant (R184, R186). -/
def Obligations.QuiesceAndResume : Prop :=
  ∀ (s : State) (d : Directive), d.params = [] →
    let grant (status : Status) (tag : Tag) : Notice :=
      { kind := .quiesceGrant, status := status, subject := 0, tag := tag, fields := [] }
    let empty := ∀ ix : ItemIx, s.stk.items[ix] = none
    (Addressed d 0x08 2 s →
      (s.dru.quiesce = .quiesced ∨ (s.dru.quiesce = .running ∧ empty) →
        exec (.quiesce d) s = .next
          { s with
            ilu := { s.ilu with recordOpen := false }
            dru := { s.dru with
              quiesce := .quiesced
              notices := s.dru.notices ++ [answered 0x08 d.tag .accepted [], grant .done d.tag] } }) ∧
      ((s.dru.quiesce = .running ∧ ¬ empty) ∨ (s.dru.quiesce = .quiescing ∧ s.dru.owed.length < 4) →
        exec (.quiesce d) s = .next
          { s with
            ilu := { s.ilu with recordOpen := false }
            dru := { s.dru with
              quiesce := .quiescing, owed := s.dru.owed ++ [d.tag]
              notices := s.dru.notices ++ [answered 0x08 d.tag .accepted []] } }) ∧
      (s.dru.quiesce = .quiescing → 4 ≤ s.dru.owed.length →
        exec (.quiesce d) s = .next (queued [answered 0x08 d.tag .busy []] s))) ∧
    (Addressed d 0x09 (1 + s.dru.owed.length) s →
      exec (.resume d) s = .next
        { s with
          ilu := { s.ilu with recordOpen := false }
          dru := { s.dru with
            quiesce := .running, owed := []
            notices := s.dru.notices ++ [answered 0x09 d.tag .done []] ++ s.dru.owed.map (grant .withdrawn) } })

/-- RESTART leaves no work anywhere in the part: items, contexts, queues, releases, scaling and conversion go, every held slot waits to
be wiped, pending roles take force, owed grants are withdrawn, duty and mark return to their starting values; the pacing flag is active
at no more free slots than that mark, inactive from mark + 4 on. The tables, the egress
link and its FIFO, the store, face memory, and the counts stay (R57, R62 to R64, R80, R97, R164, R188, R189). A parity error in a read
that R204 lists latches TABLE_PARITY in OPERATING: the part is in BYPASS without work, the FAULT notice stands alone, and the role map,
tables, counts, monitor state, link, FIFO and store stay (R205, R206). Which read of a command comes before its other effects,
RUNNING as the quiesce state in BYPASS, and the monitor's predictor kept there, are the model's choices (log entries 4, 16, 28). -/
def Obligations.RestartDropsAllWork : Prop :=
  (∀ (s : State) (d : Directive), Addressed d 0x0A 1 s → d.params = [] →
    let free := s.fmc.slots.count .free
    ∃ t, exec (.restart d) s = .next t ∧ NoWork t ∧ t.dru.duty = 0 ∧ t.fmc.mark = s.sus.working.mark ∧
      (free ≤ s.sus.working.mark → t.fmc.pacing = true) ∧ (s.sus.working.mark + 4 ≤ free → t.fmc.pacing = false) ∧
      (∀ st : Stream, t.stk.map[st] =
        { role := ((s.stk.map[st]).pending.map Prod.fst).getD (s.stk.map[st]).role, pending := none }) ∧
      (∀ k : Slot, t.fmc.slots[k] = if isHeldSlot s.fmc.slots[k] then .scrubbing else s.fmc.slots[k]) ∧
      t.fmc.scrubOrder = s.fmc.scrubOrder ++ (List.finRange 48).filter (fun k => isHeldSlot s.fmc.slots[k]) ∧
      t.fmc.mem = s.fmc.mem ∧ t.fmc.tally = s.fmc.tally ∧ t.elu = s.elu ∧ t.sus = s.sus ∧ t.flm = s.flm ∧
      t.ilu = { s.ilu with recordOpen := false } ∧ t.rel.position = s.rel.position ∧
      t.dru.profiles = s.dru.profiles ∧ t.dru.codeSlots = s.dru.codeSlots ∧ t.dru.toneSlots = s.dru.toneSlots ∧
      t.dru.rules = s.dru.rules ∧ t.stk.orphans = s.stk.orphans ∧ t.stk.accepted = s.stk.accepted ∧
      t.stk.lost = s.stk.lost ∧ t.fmc.corrected = s.fmc.corrected ∧ t.fmc.uncorrectable = s.fmc.uncorrectable ∧
      ((∀ st : Stream, (s.stk.map[st]).pending = none) → s.dru.notices.length + 1 + s.dru.owed.length ≤ 16 →
        t.dru.notices = s.dru.notices ++
          [answered 0x0A d.tag .done
            [byteOf (32 - s.stk.items.count none), byteOf (fencesHeld s.rel), byteOf s.dru.owed.length]] ++
          s.dru.owed.map (fun tag => { kind := .quiesceGrant, status := .withdrawn, subject := 0, tag := tag, fields := [] }))) ∧
  (∀ (s : State) (c : Instr), s.flm.part = .operating → s.flm.latch = none → s.elu.link ≠ .between → readsBadParity s c →
    ∃ t, exec c s = .next t ∧
      Latched .tableParity
        (if (recordOf c).isSome then { s with ilu := { s.ilu with recordOpen := false } } else s) t) ∧
  ∀ (s : State) (st : Stream) (raw : Carried) (ix : ItemIx), s.flm.part = .operating → s.flm.latch = none →
    s.elu.link ≠ .between → reachesTracker s st raw 0 → hasOpenItem s st ix → s.stk.items[ix] ≠ none →
    (s.stk.map[st]).pending = none →
    ∃ t, exec (.itemClose st raw (some .release)) s = .next t ∧
      Latched .tableParity { s with ilu := { s.ilu with recordOpen := false } } t

/-- SET_PACING in range sets duty and mark, and the pacing flag is evaluated at once: active from at most mark free slots, inactive from
mark + 4. MARK_LINK_ERROR sets the mark-error request. Both are answered DONE. A duty above 7, or a mark
outside 4 to 24, is answered RANGE with its offset (R9, R62, R63, R169, R190, R191). -/
def Obligations.PacingAndMarkDirectives : Prop :=
  ∀ (s : State) (d : Directive),
    (∀ duty mark : Nat, Addressed d 0x0B 1 s → d.params = [byteOf duty, byteOf mark] → duty ≤ 7 → 4 ≤ mark → mark ≤ 24 →
      let free := s.fmc.slots.count .free
      exec (.setPacing d) s = .next
        { s with
          ilu := { s.ilu with recordOpen := false }
          fmc := { s.fmc with
            mark := mark
            pacing := if free ≤ mark then true else if mark + 4 ≤ free then false else s.fmc.pacing }
          dru := { s.dru with duty := duty, notices := s.dru.notices ++ [answered 0x0B d.tag .done []] } }) ∧
    (∀ duty mark : Byte, Addressed d 0x0B 1 s → d.params = [duty, mark] →
      (7 < duty.toNat → exec (.setPacing d) s = .next (queued [answered 0x0B d.tag .range (toBE 2 1)] s)) ∧
      (duty.toNat ≤ 7 → mark.toNat < 4 ∨ 24 < mark.toNat →
        exec (.setPacing d) s = .next (queued [answered 0x0B d.tag .range (toBE 2 2)] s))) ∧
    (Addressed d 0x0D 1 s → d.params = [] →
      exec (.markLinkError d) s = .next
        { s with
          ilu := { s.ilu with recordOpen := false }
          elu := { s.elu with markError := true }
          dru := { s.dru with notices := s.dru.notices ++ [answered 0x0D d.tag .done []] } })

/-- WRITE_START_UP with no store write in progress takes its contents and tag and erases the check cell; ERASE_COMPLETE erases the other
cells and begins to program; STORE_WRITE_COMPLETE leaves the store valid with the contents, the state IDLE and, outside BYPASS, a STORE
WRITTEN notice. The working settings stay. READ_START_UP reports the cells as read, a blank store by its blank values. While a write is in
progress both directives are BUSY; before that, WRITE_START_UP with a field out of range is answered RANGE with the first bad offset (R169, R192,
R193, R200 to R203). -/
def Obligations.StoreWriteCommands : Prop :=
  ∀ (s : State) (d : Directive) (c : Settings) (tag : Tag),
    (Addressed d 0x0E 1 s → d.params.length = 5 →
      let p := 0x0E :: d.params
      (∀ o, firstBad (settingsFields p) = some o →
        exec (.writeStartUp d) s = .next (queued [answered 0x0E d.tag .range (toBE 2 o)] s)) ∧
      (firstBad (settingsFields p) = none → s.sus.write = .idle →
        exec (.writeStartUp d) s = .next
          { s with
            ilu := { s.ilu with recordOpen := false }
            sus := { s.sus with
              cells := s.sus.cells.set 5 0xFF
              write := .erasing
                { station := param p 1 1, mask := BitVec.ofNat 16 (param p 2 2), mark := param p 4 1,
                  linkNotices := decide (param p 5 1 = 1) } d.tag }
            dru := { s.dru with notices := s.dru.notices ++ [answered 0x0E d.tag .accepted []] } }) ∧
      (firstBad (settingsFields p) = none → s.sus.write ≠ .idle → exec (.writeStartUp d) s = .next (queued [answered 0x0E d.tag .busy []] s))) ∧
    (s.sus.write = .erasing c tag →
      exec .eraseComplete s =
        .next { s with sus := { s.sus with cells := Vector.replicate 6 0xFF, write := .programming c tag } }) ∧
    (s.sus.write = .programming c tag → c.station ≤ 30 → 4 ≤ c.mark → c.mark ≤ 24 →
      ∃ cells, readStore cells = some c ∧
        exec .storeWriteComplete s = .next
          { s with
            sus := { s.sus with cells := cells, write := .idle }
            dru := if s.flm.part = .bypass then s.dru
              else noticed { kind := .storeWritten, status := .done, subject := 0, tag := tag, fields := settingsBytes c } s.dru }) ∧
    (Addressed d 0x0F 1 s → d.params = [] →
      let stored : List Byte := if (readStore s.sus.cells).isSome then
          [1, s.sus.cells[0], s.sus.cells[1], s.sus.cells[2], s.sus.cells[3], s.sus.cells[4]]
        else [0, 30, 0, 0, 8, 0]
      (s.sus.write = .idle →
        exec (.readStartUp d) s =
          .next (queued [answered 0x0F d.tag .done (stored ++ settingsBytes s.sus.working)] s)) ∧
      (s.sus.write ≠ .idle → exec (.readStartUp d) s = .next (queued [answered 0x0F d.tag .busy []] s)))

/-! ## The steps of the pipeline -/

/-- SCU_INPUT_ROW adds the next row handed over into the accumulator line; a row that ends an output row below the last writes it, 2,560
bytes a row, and starts the next line with what is left of it; the row that ends the last holds it; rows after it are only
counted. Every byte of face memory outside the row written stays (R45, R69 to R71, R74, R76). What is left in the line then is the model's choice (log entry 25). -/
def Obligations.InputRowScaled : Prop :=
  ∀ (s : State) (k : Slot) (c : ScaleCtx) (row : InputRow) (rest : List InputRow),
    s.scu[k] = some c → c.waiting = row :: rest →
    let h := horizontalPass c.step c.outWidth (rowSamples c.keptWidth row)
    let ends := 256 * (c.rowsTaken + 1)
    let bound := (c.lineRow + 1) * c.step
    let sums := List.zipWith (fun a v => a + (bound - 256 * c.rowsTaken) * v) c.line h
    let out := sums.map (fun a => toneEntry s.dru c.toneSlot ((a + c.step / 2) / c.step))
    let taken := { c with waiting := rest, rowsTaken := c.rowsTaken + 1 }
    (c.outHeight ≤ c.lineRow → exec (.scuInputRow k none) s = .next { s with scu := s.scu.set k (some taken) }) ∧
    (c.lineRow < c.outHeight → ends < bound →
      exec (.scuInputRow k none) s = .next
        { s with scu := s.scu.set k (some { taken with line := List.zipWith (fun a v => a + 256 * v) c.line h }) }) ∧
    (c.lineRow + 1 < c.outHeight → bound ≤ ends → s.fmc.slots[k] = .filling → MemoryCanonical s →
      ∃ t, exec (.scuInputRow k none) s = .next t ∧
        Wrote s.fmc.mem t.fmc.mem (greyBase k + c.lineRow * 2560) out ∧
        t = { s with
          scu := s.scu.set k (some { taken with
            lineRow := c.lineRow + 1, line := h.map (fun v => (ends - bound) * v), greySum := c.greySum + greyTotal out })
          fmc := { s.fmc with mem := t.fmc.mem } }) ∧
    (c.lineRow + 1 = c.outHeight → bound ≤ ends →
      exec (.scuInputRow k none) s = .next
        { s with scu := s.scu.set k (some { taken with lineRow := c.lineRow + 1, line := sums, lastRow := some out }) })

/-- LAST_ROW_WRITE_COMPLETE at the end of a face's input writes the held row as the last, sets the mean grey, makes slot and face READY at the
tail of the ready queue and releases the context; an idle engine then takes the HEAD of that queue, this face or one that waited before it
(R50, R51, R72, R76). The taking, cnvTake: an engine at work, and an empty queue, leave all as it is; else the head leaves the queue, its face and slot are
CONVERTING, and attempt 0 begins with a background of 4,080, the K and L of R83 and the limit of R119 (R51, R82 to R84, R105, R119). A parity error in the item
record read then latches TABLE_PARITY instead (R204); the monitor's predictor kept there is the model's choice (log entry 28). -/
def Obligations.LastRowMakesFaceReady : Prop :=
  (∀ (s : State) (k : Slot) (c : ScaleCtx) (row : List Byte) (ix : ItemIx) (n : Nat) (r : ItemRecord) (f : FaceRecord),
    s.scu[k] = some c → c.lastRow = some row → c.inputEnded = true → c.waiting = [] → s.fmc.slots[k] = .filling →
    MemoryCanonical s → faceHolding s k = some (ix, n) → s.stk.items[ix] = some r → r.faces[n]? = some f →
    let grey := (c.greySum + (row.map BitVec.toNat).sum) / (c.outWidth * c.outHeight)
    let ready := { f with meanGrey := grey, state := .ready }
    let written (m : FaceMemory) : State :=
      { s with
        stk := { s.stk with items := s.stk.items.set ix (some { r with faces := r.faces.set n ready }) }
        scu := s.scu.set k none
        fmc := { s.fmc with slots := s.fmc.slots.set k .ready, ready := s.fmc.ready ++ [k], mem := m } }
    (∃ t, exec (.lastRowWriteComplete k none) s = .next t ∧
      Wrote s.fmc.mem t.fmc.mem (greyBase k + (c.outHeight - 1) * 2560) row ∧ t = cnvTake none (written t.fmc.mem)) ∧
    (s.cnv ≠ none →
      ∃ t, exec (.lastRowWriteComplete k none) s = .next t ∧
        Wrote s.fmc.mem t.fmc.mem (greyBase k + (c.outHeight - 1) * 2560) row ∧ t = written t.fmc.mem) ∧
    (s.cnv = none → s.fmc.ready = [] → f.slot = some k →
      ∃ t, exec (.lastRowWriteComplete k none) s = .next t ∧
        Wrote s.fmc.mem t.fmc.mem (greyBase k + (c.outHeight - 1) * 2560) row ∧
        t = { s with
          stk := { s.stk with
            items := s.stk.items.set ix (some { r with faces := r.faces.set n { ready with state := .converting } }) }
          scu := s.scu.set k none
          fmc := { s.fmc with slots := s.fmc.slots.set k .converting, ready := [], mem := t.fmc.mem }
          cnv := some (firstAttempt ix n k r f) })) ∧
  ∀ s : State,
    (s.cnv ≠ none ∨ s.fmc.ready = [] → ∀ p, cnvTake p s = s) ∧
    (∀ (k : Slot) (waiting : List Slot) (ix : ItemIx) (n : Nat) (r : ItemRecord) (f : FaceRecord), s.cnv = none →
      s.fmc.ready = k :: waiting → holdsAlone s k ix n r f →
      cnvTake none s =
        { s with
          stk := { s.stk with
            items := s.stk.items.set ix (some { r with faces := r.faces.set n { f with state := .converting } }) }
          fmc := { s.fmc with slots := s.fmc.slots.set k .converting, ready := waiting }
          cnv := some (firstAttempt ix n k r f) }) ∧
    (s.cnv = none → s.fmc.ready ≠ [] → s.flm.part = .operating → s.flm.latch = none → s.elu.link ≠ .between →
      Latched .tableParity s (cnvTake (some .converter) s))

/-- CNV_GREY_ROW. The row's words are read; each sample of an uncorrectable one is 255, and MEMORY_FAULT is set unless the abandon mark
is; the reads count, and the one that brings the tally to 16 latches MEMORY_LIMIT (R46, R47, R85, R97). An attempt that goes on moves to the
next row: background, window, counts and coder follow, and the whole words the coder issued are in the coded area, every other byte of face
memory staying. An attempt that stops OVER writes its measurements; below the last, the next one is set up as nextAttempt says; the last settles
the face WITHHELD_OVER, its slot to be wiped, which may decide its item (R52, R83, R84, R86 to R92, R112, R113, R116, R121, R124, R143). At a row
boundary with the abandon mark set the engine stops as engineStopped says (R26, R95, R128, R185). The engine, idle then, takes the head of the ready queue, as
LastRowMakesFaceReady says of cnvTake, and after a settling the Release Engine, if idle, chooses, as SegmentComposed says of relTry (R51, R82, R93,
R153). With the engine idle, late results of discarded reads count alone (R97). How reports name words, the set-up of the next attempt in the same step, which words are read after a
latch, what late results are and the window are the model's choices (log entries 3, 14, 17, 30, 32). -/
def Obligations.GreyRowConverted : Prop :=
  (∀ (s : State) (w : Work) (reads : List ReadResult), s.cnv = some w → w.phase = .rows ∨ w.phase = .boundary →
    s.fmc.slots[w.slot] = .converting → w.nextRow < w.height → MemoryCanonical s →
    let base := greyBase w.slot + w.nextRow * 2560
    let words := (w.width + 7) / 8
    let found := wordsFound s.fmc.mem (base / 8) words reads
    let bad := found.count .uncorrectable
    let last := w.nextRow + 1 = w.height
    (16 ≤ s.fmc.tally.toNat + bad → s.fmc.tally.toNat < 16 → reads.length = words → s.flm.part = .operating →
      s.flm.latch = none → s.elu.link ≠ .between →
      ∃ t, exec (.cnvGreyRow reads none) s = .next t ∧ t.flm = { part := .bypass, latch := some .memoryLimit } ∧ NoWork t ∧
        t.fmc.tally = satAdd s.fmc.tally bad ∧ t.fmc.uncorrectable = satAdd s.fmc.uncorrectable bad ∧
        t.fmc.corrected = satAdd s.fmc.corrected (found.count .corrected)) ∧
    (bad = 0 ∨ s.fmc.tally.toNat + bad < 16 →
      let row := taken s.fmc.mem base w.width 255 found
      let read : State :=
        if 0 < bad ∧ w.abandonMark = false then
          modFace w.item w.face (fun f => { f with flags := f.flags ||| flagMemoryFault }) (readFrom (base / 8) found s)
        else readFrom (base / 8) found s
      let pixels := thresholdRow w.k w.params.tmin w.params.tmax w.background row
      let x := releaseRows (slotEntries s.dru w.params.codeSlot) w (releasedRows w.l w.height w.nextRow w.window pixels)
      let bytes := x.run.words.flatten
      let ended := measured w x.black x.run.coder.bytes
      8 * w.coder.wordsWritten + bytes.length ≤ 131072 →
      ∃ t, exec (.cnvGreyRow reads none) s = .next t ∧
        Wrote read.fmc.mem t.fmc.mem (codedBase w.slot + 8 * w.coder.wordsWritten) bytes ∧
        (x.run.stopped = false → w.abandonMark = false ∨ last →
          t = { read with
            fmc := { read.fmc with mem := t.fmc.mem }
            cnv := some { w with
              nextRow := w.nextRow + 1, background := nextBackgroundLine w.params.guardBand w.background row,
              window := (pixels :: w.window).take 2, released := x.released, black := x.black, coder := x.run.coder,
              phase := if w.nextRow + 1 = w.height then .lastWord else .rows } }) ∧
        (x.run.stopped = true → w.abandonMark = false → w.attempt + 1 < w.params.maxAttempts →
          t = { modFace w.item w.face ended read with
            fmc := { read.fmc with mem := t.fmc.mem }
            cnv := some (nextAttempt w) }) ∧
        ∀ r : ItemRecord, read.stk.items[w.item] = some r →
          (∀ f : FaceRecord, r.faces[w.face]? = some f → x.run.stopped = true → w.abandonMark = false →
            w.params.maxAttempts ≤ w.attempt + 1 →
            let withheld := { ended f with state := .final, disposition := some .withheldOver, slot := none }
            t = relTry none (cnvTake none
              { wipeLater w.slot (putItem w.item (decidedIf { r with faces := r.faces.set w.face withheld }) read) with
                fmc := { (wipeLater w.slot read).fmc with mem := t.fmc.mem }
                cnv := none })) ∧
          (w.abandonMark = true → x.run.stopped = true ∨ ¬ last →
            t = cnvTake none (engineStopped w r { read with fmc := { read.fmc with mem := t.fmc.mem } })))) ∧
  ∀ (s : State) (reads : List ReadResult), s.cnv = none →
    (s.flm.part = .operating ∧ s.fmc.tally.toNat + reads.count .uncorrectable < 16) ∨
      (s.flm.part = .bypass ∧ s.flm.latch ≠ none) →
    exec (.cnvGreyRow reads none) s = .next { s with fmc := counted reads s.fmc }

/-- ATTEMPT_FIT writes the word in hand as the last, zero filled, and counts it; and it writes the attempt's measurements; the face goes to
the Quality Rule Unit as CODED, with UNDERSIZE below its floor, or as CODED_OVER with OVER_CEILING above its ceiling (R91, R92, R113, R114, R116,
R122, R123). With the abandon mark set the engine stops instead: nothing is written to the face record but that it holds its slot no longer, and
the slot waits to be wiped, as engineStopped says; it then takes the head of the ready queue, as LastRowMakesFaceReady says of cnvTake (R51, R82, R94,
R95, R128). That flags and disposition wait with the engine until EVALUATION_END, and that the bit count leaves
the padding out, are the model's choices (log entries 13, 31). -/
def Obligations.AttemptFitMeasured : Prop :=
  ∀ (s : State) (w : Work) (r : ItemRecord) (f : FaceRecord), s.cnv = some w → w.phase = .lastWord →
    s.fmc.slots[w.slot] = .converting → s.stk.items[w.item] = some r → r.faces[w.face]? = some f → MemoryCanonical s →
    w.coder.hand = [] ∨ 8 * w.coder.wordsWritten + 8 ≤ 131072 → w.coder.hand.length ≤ 64 →
    let last := if w.coder.hand = [] then [] else packBytes (w.coder.hand ++ List.replicate (64 - w.coder.hand.length) false)
    let coded := min ((w.coder.bitCount + 7) / 8) 131072
    let measured := { f with
      attempts := w.attempt + 1, finalK := w.k, finalL := w.l, blackCount := w.black,
      blackRatio := w.black * 10000 / (w.width * w.height), codedBytes := coded }
    let flags := if w.params.ceiling < coded then flagOverCeiling else if coded < w.params.floor then flagUndersize else 0
    let disposition := if w.params.ceiling < coded then Disposition.codedOver else .coded
    let coder := if w.coder.hand = [] then w.coder
      else { w.coder with wordsWritten := w.coder.wordsWritten + 1, hand := [] }
    ∃ t, exec (.attemptFit none) s = .next t ∧
      Wrote s.fmc.mem t.fmc.mem (codedBase w.slot + 8 * w.coder.wordsWritten) last ∧
      (w.abandonMark = false →
        t = { s with
          stk := { s.stk with items := s.stk.items.set w.item (some { r with faces := r.faces.set w.face measured }) }
          fmc := { s.fmc with mem := t.fmc.mem }
          cnv := some { w with coder := coder, phase := .evaluating (f.flags ||| flags) disposition } }) ∧
      (w.abandonMark = true →
        t = cnvTake none (engineStopped w r { s with fmc := { s.fmc with mem := t.fmc.mem } }))

/-- EVALUATION_END: the flags of the entries that matched and the rule result are in the face record, the face is FINAL; kept, its slot is
CODED; withheld by a rule, its slot waits to be wiped and is no longer the face's; the engine is idle; a CLOSED item whose last face this was
is decided (R52, R127, R138 to R140, R143). The engine then takes the head of the ready queue, as LastRowMakesFaceReady says of cnvTake, and the
Release Engine, if idle, chooses, as SegmentComposed says of relTry (R51, R82, R93, R153). -/
def Obligations.EvaluationSettlesFace : Prop :=
  ∀ (s : State) (w : Work) (r : ItemRecord) (f : FaceRecord) (working : BitVec 32) (disposition : Disposition),
    s.cnv = some w → w.phase = .evaluating working disposition → s.stk.items[w.item] = some r → r.faces[w.face]? = some f →
    disposition = .coded ∨ disposition = .codedOver →
    let ev := takeEntries s.dru.rules f w.params.ruleMask working
    let withheld := RuleAction.withhold ∈ ev.actions
    let suspect : BitVec 32 := if ¬ withheld ∧ RuleAction.suspect ∈ ev.actions then flagSuspect else 0
    let settled := { f with
      flags := f.flags ||| (ev.working ||| suspect), state := .final
      disposition := some (if withheld then .withheldRule else disposition), slot := if withheld then none else f.slot }
    exec (.evaluationEnd none) s = .next (relTry none (cnvTake none
      { s with
        stk := { s.stk with items := s.stk.items.set w.item (some (decidedIf { r with faces := r.faces.set w.face settled })) }
        fmc := { s.fmc with
          slots := s.fmc.slots.set w.slot (if withheld then .scrubbing else .coded)
          scrubOrder := s.fmc.scrubOrder ++ (if withheld then [w.slot] else []) }
        cnv := none }))

/-- A release. An item is releasable when it is DECIDED and every unreleased entry ahead of it in its queue is an item still undecided whose
overtaken count is below its deferral limit, no fence marker among them; those it would overtake (R151, R152). The idle Release Engine (relTry) takes,
in OPERATING, the first stream after the arbiter position that has one. It then raises each overtaken item's count with DEFERRED, sets OUT_OF_ORDER
where there is one, makes the item RELEASING, and offers the first of: a PENDING marker for each overtaken item that had none, head and segments of
each kept face but of a CANCELLED or STALLED item, the ITEM RESULT (R153 to R155, R157, R158, R160). CODED_SEGMENT_COMPOSED: segment i carries
the bytes of the coded area from 16,376 x i on, as many as are left, at most 16,376, with its index and the last-segment marker, bytes
of an uncorrectable word as 0 with MEMORY_FAULT set on the face and the reads counted, and is offered; nothing else changes (R20, R46, R159).
How reports name words is the model's choice (log entry 3). -/
def Obligations.SegmentComposed : Prop :=
  (∀ (s : State) (x : Release) (n i : Nat) (r : ItemRecord) (f : FaceRecord) (k : Slot) (reads : List ReadResult),
    s.rel.release = some x → x.current = .segment n i → x.offered = none → s.stk.items[x.item] = some r →
    r.faces[n]? = some f → f.slot = some k → s.fmc.slots[k] = .coded →
    let left := f.codedBytes - 16376 * i
    let len := min 16376 left
    let base := codedBase k + 16376 * i
    let found := wordsFound s.fmc.mem (base / 8) ((len + 7) / 8) reads
    let bad := found.count .uncorrectable
    (bad = 0 ∨ s.fmc.tally.toNat + bad < 16) →
    let data := taken s.fmc.mem base len 0 found
    let last : Byte := if i + 1 = (f.codedBytes + 16375) / 16376 then 1 else 0
    let payload := toBE 4 r.seq.toNat ++ [sideByte f.side, last, byteOf i, 0] ++ data
    let segment : Record :=
      { kind := 0x21, target := byteOf r.stream.val, body := { tag := 0, payload := payload, check := crc32 payload } }
    let marked := if 0 < bad then { f with flags := f.flags ||| flagMemoryFault } else f
    exec (.codedSegmentComposed reads none) s = .next
      { putItem x.item { r with faces := r.faces.set n marked } (readFrom (base / 8) found s) with
        rel := { s.rel with release := some { x with offered := some segment } } }) ∧
  (∀ (s : State) (q : List QueueEntry) (ix : ItemIx) (passed : List ItemIx),
    releasableFrom s [] q = some (ix, passed) ↔
      ∃ ahead behind r, q = ahead ++ .item ix false :: behind ∧ s.stk.items[ix] = some r ∧ r.state = .decided ∧
        passed = ahead.filterMap (fun e => match e with
          | .item y false => some y
          | _ => none) ∧
        ∀ e ∈ ahead, (∃ y, e = .item y true) ∨ ∃ y p, e = .item y false ∧ s.stk.items[y] = some p ∧
          (p.state = .opened ∨ p.state = .closed) ∧ p.overtaken < p.profile.d) ∧
  (∀ s : State,
    (s.rel.release ≠ none ∨ s.flm.part ≠ .operating ∨ (∀ st : Stream, releasableFrom s [] s.rel.queues[st] = none) →
      relTry none s = s) ∧
    (s.rel.release = none → s.flm.part = .operating → ∀ (turn : Fin 16) (ix : ItemIx) (passed : List ItemIx) (r : ItemRecord),
      releasableFrom s [] s.rel.queues[s.rel.position + 1 + turn] = some (ix, passed) →
      (∀ sooner < turn, releasableFrom s [] s.rel.queues[s.rel.position + 1 + sooner] = none) →
      s.stk.items[ix] = some r → (ix :: passed).Nodup →
      ∃ t x, relTry none s = t ∧ t = { s with
          stk := { s.stk with items := t.stk.items }
          rel := { s.rel with position := s.rel.position + 1 + turn, release := some x } } ∧
        t.stk.items[ix] =
          some { r with state := .releasing, flags := r.flags ||| (if passed = [] then 0 else 0x20) } ∧
        (∀ y ∈ passed, ∀ p, s.stk.items[y] = some p → t.stk.items[y] = some { p with
          overtaken := p.overtaken + 1, flags := p.flags ||| 0x40, pendingSent := true }) ∧
        (∀ y, y ≠ ix → y ∉ passed → t.stk.items[y] = s.stk.items[y]) ∧
        x.item = ix ∧ x.offered = composeRecord t ix x.current ∧
        x.current :: x.rest =
          (passed.filter (fun y => (s.stk.items[y]).any (fun p => !p.pendingSent))).map .marker ++
            (if r.outcome = some .cancelled ∨ r.outcome = some .stalled then []
             else (r.faces.mapIdx (fun n f =>
               if f.disposition = some .coded ∨ f.disposition = some .codedOver then
                 .head n :: (List.range ((f.codedBytes + 16375) / 16376)).map (.segment n) else [])).flatten) ++ [.result])) ∧
  ∀ (s : State) (ix : ItemIx) (r : ItemRecord), s.stk.items[ix] = some r →
    let made (kind : Byte) (payload : List Byte) : Option Record := some
      { kind := kind, target := byteOf r.stream.val, body := { tag := 0, payload := payload, check := crc32 payload } }
    let entry (f : FaceRecord) : List Byte :=
      [sideByte f.side, dispositionByte f.disposition, byteOf f.attempts, byteOf f.finalK, byteOf f.finalL] ++
        toBE 4 f.codedBytes ++ toBE 2 f.blackRatio ++ [byteOf f.meanGrey] ++ toBE 4 f.flags.toNat ++
        toBE 2 f.outWidth ++ toBE 2 f.outHeight
    let final := r.faces.filter (fun f => f.state = .final)
    (∀ x, composeRecord s x (.marker ix) = made 0x22
      (toBE 4 r.seq.toNat ++ [6, r.flags, byteOf r.overtaken, byteOf final.length] ++ final.flatMap entry)) ∧
    composeRecord s ix .result = made 0x22
      (toBE 4 r.seq.toNat ++ [outcomeByte r.outcome, r.flags, byteOf r.overtaken, byteOf r.faces.length] ++
        r.faces.flatMap entry) ∧
    ∀ n f, r.faces[n]? = some f → composeRecord s ix (.head n) = made 0x20
      (toBE 4 r.seq.toNat ++ [sideByte f.side] ++ toBE 2 f.outWidth ++ toBE 2 f.outHeight ++ toBE 2 r.profile.outDpi ++
        [byteOf r.profile.codeSlot, byteOf f.finalK, byteOf f.finalL, byteOf f.attempts] ++ toBE 4 f.codedBytes)

/-! ## The egress link and face memory -/

/-- EGRESS_RECORD_END in STARTING and OPERATING: the requester after the last one granted, in the cycle pass-through FIFO, notice queue,
release, that has a record ready starts it; with none ready, or while the hold input is asserted, a FILL starts, marked if a mark is
requested. A passed record's entry is freed at its end. The grant of a release's ITEM RESULT completes the release: its entry is marked
released, its CODED slots go to SCRUBBING in face-list order, its record and entry go when no face holds a slot, owed grants are granted where the
table is then empty, the fence markers of the queue with no unreleased entry ahead of them pass, and the engine chooses again (R26, R53, R150, R153,
R161, R185). A parity error in the item record read then, or for the next record, latches instead (R148, R204; at which read is the model's choice, log
entry 4). In BYPASS
the FAULT notice starts first, then the FIFO, else the link lies between records; the release of the hold input there starts what waits.
EGRESS_HOLD_ASSERT and EGRESS_HOLD_RELEASE set the input and leave the record in progress (R8, R9, R15 to R18, R206). That the generator moves when a FILL
starts, and in BYPASS the arbiter position after the FAULT notice and the predictor kept, are the model's choices (log entries 12, 16, 28). -/
def Obligations.EgressServesInTurn : Prop :=
  (∀ s : State, exec .egressHoldAssert s = .next { s with elu := { s.elu with holdInput := true } }) ∧
  (∀ s : State, s.elu.link ≠ .between →
    exec .egressHoldRelease s = .next { s with elu := { s.elu with holdInput := false } }) ∧
  (∀ (s : State) (src : Source) (sent : List Byte), s.elu.link = .sending src sent →
    let fifo := if src = .passThrough then s.elu.fifo.tail else s.elu.fifo
    let offered := s.rel.release.bind Release.offered
    let fill := fillPayload s.elu.fillGen s.elu.markError
    let filled : State := { s with elu := { s.elu with
      fifo := fifo, fillGen := fill.2, markError := false, link := .sending .fill (recordBytes (fillRecord fill.1)) } }
    let releaseTurn := s.elu.position = .notices ∨ (s.elu.position = .passThrough ∧ s.dru.notices = []) ∨
      (s.elu.position = .release ∧ fifo = [] ∧ s.dru.notices = [])
    (s.flm.part = .bypass →
      (s.elu.holdInput = true ∨ (s.dru.notices = [] ∧ fifo = []) →
        exec (.egressRecordEnd none) s = .next { s with elu := { s.elu with fifo := fifo, link := .between } }) ∧
      (s.elu.holdInput = false → ∀ n ns, s.dru.notices = n :: ns →
        exec (.egressRecordEnd none) s = .next { s with
          dru := { s.dru with notices := ns }
          elu := { s.elu with
            fifo := fifo, link := .sending .notices (recordBytes (noticeRecord s.sus.working.station n)) } }) ∧
      (s.elu.holdInput = false → s.dru.notices = [] → ∀ p ps, fifo = p :: ps →
        exec (.egressRecordEnd none) s = .next { s with elu := { s.elu with
          fifo := fifo, position := .passThrough
          link := .sending .passThrough (s.fmc.mem.readBytes (passEntryBase p.entry) p.length) } })) ∧
    (s.flm.part = .starting ∨ s.flm.part = .operating →
      (s.elu.holdInput = true ∨ (fifo = [] ∧ s.dru.notices = [] ∧ offered = none) →
        exec (.egressRecordEnd none) s = .next filled) ∧
      (s.elu.holdInput = false → ∀ n ns, s.dru.notices = n :: ns →
        s.elu.position = .passThrough ∨ (s.elu.position = .release ∧ fifo = []) ∨
          (s.elu.position = .notices ∧ offered = none ∧ fifo = []) →
        exec (.egressRecordEnd none) s = .next { s with
          dru := { s.dru with notices := ns }
          elu := { s.elu with
            fifo := fifo, position := .notices
            link := .sending .notices (recordBytes (noticeRecord s.sus.working.station n)) } }) ∧
      (s.elu.holdInput = false → ∀ p ps, fifo = p :: ps →
        s.elu.position = .release ∨ (s.elu.position = .notices ∧ offered = none) ∨
          (s.elu.position = .passThrough ∧ s.dru.notices = [] ∧ offered = none) →
        exec (.egressRecordEnd none) s = .next { s with elu := { s.elu with
          fifo := fifo, position := .passThrough
          link := .sending .passThrough (s.fmc.mem.readBytes (passEntryBase p.entry) p.length) } }) ∧
      (s.elu.holdInput = false → ∀ x r c rest, s.rel.release = some x → x.offered = some r → x.current ≠ .result →
        x.rest = c :: rest → releaseTurn →
        let next : Release := { item := x.item, current := c, offered := composeRecord s x.item c, rest := rest }
        exec (.egressRecordEnd none) s = .next { s with
          elu := { s.elu with fifo := fifo, position := .release, link := .sending .release (recordBytes r) }
          rel := { s.rel with release := some next } }) ∧
      (s.elu.holdInput = false → releaseTurn → ∀ (x : Release) (result : Record) (r : ItemRecord),
        s.rel.release = some x → x.offered = some result → x.current = .result → s.stk.items[x.item] = some r →
        QueueEntry.item x.item false ∈ s.rel.queues[r.stream] →
        let coded := r.faces.filterMap (fun f => f.slot.filter (fun k => s.fmc.slots[k] = .coded))
        let freed := ∀ f ∈ r.faces, ∀ k, f.slot = some k → s.fmc.slots[k] = .coded
        let left := { r with faces := r.faces.map (fun f =>
          { f with slot := f.slot.filter (fun k => s.fmc.slots[k] ≠ .coded) }) }
        let queue := s.rel.queues[r.stream].map (fun e => if e = .item x.item false then .item x.item true else e)
        let queue := if freed then queue.filter (fun e => decide (e ≠ .item x.item true)) else queue
        let isSpent (e : QueueEntry) : Bool := match e with
          | .item _ false => false
          | _ => true
        let near := queue.takeWhile isSpent
        let passed := near.filterMap (fun e => match e with
          | .fence tag => some tag
          | .item _ _ => none)
        let granted := s.dru.quiesce = .quiescing ∧ freed ∧ ∀ j : ItemIx, j ≠ x.item → s.stk.items[j] = none
        let event (kind : NoticeKind) (fields : List Byte) (tag : Tag) : Notice :=
          { kind := kind, status := .done, subject := 0, tag := tag, fields := fields }
        exec (.egressRecordEnd none) s = .next (relTry none { s with
          elu := { s.elu with fifo := fifo, position := .release, link := .sending .release (recordBytes result) }
          stk := { s.stk with items := s.stk.items.set x.item (if freed then none else some left) }
          fmc := { s.fmc with
            slots := Vector.ofFn (fun k : Fin 48 => if k ∈ coded then .scrubbing else s.fmc.slots[k])
            scrubOrder := s.fmc.scrubOrder ++ coded }
          rel := { s.rel with
            release := none
            queues := s.rel.queues.set r.stream
              (near.filter (fun e => match e with
                | .item _ _ => true
                | .fence _ => false) ++ queue.dropWhile isSpent) }
          dru := noticedAll
            ((if granted then s.dru.owed.map (event .quiesceGrant []) else []) ++
              passed.map (event .fencePassed [byteOf r.stream.val]))
            (if granted then { s.dru with quiesce := .quiesced, owed := [] } else s.dru) })) ∧
      (s.flm.part = .operating → s.flm.latch = none → s.elu.holdInput = false → releaseTurn → ∀ (x : Release) (record : Record),
        s.rel.release = some x → x.offered = some record →
        (x.current = .result ∧ s.stk.items[x.item] ≠ none) ∨ (x.current ≠ .result ∧ x.rest ≠ []) →
        ∃ t, exec (.egressRecordEnd (some .release)) s = .next t ∧
          Latched .tableParity { s with elu := { s.elu with
            fifo := fifo, position := .release, link := .sending .release (recordBytes record) } } t))) ∧
  ∀ s : State, s.flm.part = .bypass → s.elu.link = .between →
    let open' : Elu := { s.elu with holdInput := false }
    (∀ n ns, s.dru.notices = n :: ns →
      exec .egressHoldRelease s = .next { s with
        dru := { s.dru with notices := ns }
        elu := { open' with link := .sending .notices (recordBytes (noticeRecord s.sus.working.station n)) } }) ∧
    (s.dru.notices = [] → ∀ p ps, s.elu.fifo = p :: ps →
      exec .egressHoldRelease s = .next { s with elu := { open' with
        position := .passThrough
        link := .sending .passThrough (s.fmc.mem.readBytes (passEntryBase p.entry) p.length) } }) ∧
    (s.dru.notices = [] → s.elu.fifo = [] → exec .egressHoldRelease s = .next { s with elu := open' })

/-- SCRUB_COMPLETE makes the head of the scrub order FREE with every byte of it zero and no word of it in error, the rest of face
memory staying; in STARTING the last of them
begins the verify. VERIFY_COMPLETE makes the part OPERATING with a READY notice, or, a word having failed, puts it in BYPASS (R54 to R56, R62,
R195, R199, R204 to R206). That a word no VERIFY_READ reports is verified, RUNNING as the quiesce state in BYPASS, and the monitor's predictor
kept there, are the model's choices (log entries 19, 16, 28). -/
def Obligations.ScrubAndVerify : Prop :=
  (∀ (s : State) (k : Slot) (rest : List Slot), s.flm.part ≠ .held → s.fmc.scrubOrder = k :: rest →
    ∃ t, exec .scrubComplete s = .next t ∧
      (∀ a, t.fmc.mem.read a =
        if k.val * 3407872 ≤ a ∧ a < k.val * 3407872 + 3407872 then 0 else s.fmc.mem.read a) ∧
      (∀ w, t.fmc.mem.readResult w .clean =
        if k.val * 3407872 ≤ 8 * w ∧ 8 * w < k.val * 3407872 + 3407872 then .clean else s.fmc.mem.readResult w .clean) ∧
      t = { s with fmc := { s.fmc with
        slots := s.fmc.slots.set k .free, scrubOrder := rest, mem := t.fmc.mem
        verify := if s.flm.part = .starting ∧ rest = [] then some true else s.fmc.verify
        pacing := if s.flm.part = .operating then
            (let free := (s.fmc.slots.set k .free).count .free
             if s.fmc.pacing then decide (free < s.fmc.mark + 4) else decide (free ≤ s.fmc.mark))
          else s.fmc.pacing } }) ∧
    ∀ s : State, s.flm.part = .starting →
      (s.fmc.verify = some true →
        exec .verifyComplete s = .next
          { s with
            flm := { s.flm with part := .operating }
            fmc := { s.fmc with verify := none }
            dru := noticed { kind := .ready, status := .done, subject := 0, tag := 0,
                             fields := [byteOfBool s.sus.storeValid, byteOf s.sus.working.station] } s.dru }) ∧
      (s.fmc.verify = some false → s.flm.latch = none → s.elu.link ≠ .between →
        ∃ t, exec .verifyComplete s = .next t ∧ t.flm = { part := .bypass, latch := some .scrubVerify } ∧ NoWork t ∧
          t.dru.notices = [{ kind := .fault, status := .done, subject := 0, tag := 0, fields := [1] }] ∧ t.elu = s.elu ∧
          Latched .scrubVerify s t)

/-- VERIFY_READ: a word that reads as zero, clean or corrected, is verified; any other fails the verify; the counts and the tally follow the
read. PASS_THROUGH_READ: an uncorrectable word of the record being sent goes as eight zero bytes, counted. The uncorrectable read that brings
the tally to 16 puts the part in BYPASS with cause MEMORY_LIMIT; once a fault is latched reads go on counting and latch no more (R17, R46, R47, R56, R199,
R205). That a word the part never reads faults, that damage is kept and the worse of kept and reported result found, the operand nonZero,
RUNNING as the quiesce state in BYPASS and the predictor kept there are the model's choices (log entries 27, 3, 19, 16, 28). -/
def Obligations.MemoryReadsCounted : Prop :=
  ∀ (s : State) (word : Nat) (now : ReadResult),
    (20447232 ≤ word → ∀ z, exec (.verifyRead word now z) s = .fault .noSuchWord) ∧
    (∀ ok z, word < 20447232 → s.fmc.verify = some ok →
      let found := s.fmc.mem.readResult word now
      let verified := ok && !z && decide (∀ i : Fin 8, s.fmc.mem.read (8 * word + i.val) = 0)
      (found = .clean →
        exec (.verifyRead word now z) s = .next { s with fmc := { s.fmc with verify := some verified } }) ∧
      (found = .corrected →
        exec (.verifyRead word now z) s = .next { s with fmc := { s.fmc with
          verify := some verified, corrected := satInc s.fmc.corrected, mem := s.fmc.mem.noteDamage word found } }) ∧
      (found = .uncorrectable → s.fmc.tally.toNat ≠ 15 →
        exec (.verifyRead word now z) s = .next { s with fmc := { s.fmc with
          verify := some false, uncorrectable := satInc s.fmc.uncorrectable, tally := satInc s.fmc.tally
          mem := s.fmc.mem.noteDamage word found } }) ∧
      (found = .uncorrectable → s.fmc.tally.toNat = 15 → s.flm.part = .starting → s.flm.latch = none → s.elu.link ≠ .between →
        ∃ t, exec (.verifyRead word now z) s = .next t ∧ t.flm = { part := .bypass, latch := some .memoryLimit } ∧
          t.fmc.tally.toNat = 16 ∧ NoWork t ∧
          t.dru.notices = [{ kind := .fault, status := .done, subject := 0, tag := 0, fields := [2] }])) ∧
    ∀ (p : PassEntry) (ps : List PassEntry) (bytes : List Byte), s.elu.link = .sending .passThrough bytes → s.elu.fifo = p :: ps →
      let found := s.fmc.mem.readResult (passEntryBase p.entry / 8 + word) now
      (bytes.length ≤ 8 * word → exec (.passThroughRead word now) s = .fault .noSuchWord) ∧
      (8 * word < bytes.length →
        (found = .clean → exec (.passThroughRead word now) s = .next s) ∧
        (found = .corrected →
          exec (.passThroughRead word now) s = .next { s with fmc := { s.fmc with
            corrected := satInc s.fmc.corrected
            mem := s.fmc.mem.noteDamage (passEntryBase p.entry / 8 + word) found } }) ∧
        (found = .uncorrectable →
          let zeroed :=
            bytes.take (8 * word) ++ List.replicate (min 8 (bytes.length - 8 * word)) 0 ++ bytes.drop (8 * word + 8)
          let read : State :=
            { s with
              fmc := { s.fmc with
                uncorrectable := satInc s.fmc.uncorrectable, tally := satInc s.fmc.tally
                mem := s.fmc.mem.noteDamage (passEntryBase p.entry / 8 + word) found }
              elu := { s.elu with link := .sending .passThrough zeroed } }
          (s.fmc.tally.toNat ≠ 15 ∨ s.flm.latch ≠ none → exec (.passThroughRead word now) s = .next read) ∧
          (s.fmc.tally.toNat = 15 → s.flm.latch = none → s.flm.part = .starting ∨ s.flm.part = .operating →
            ∃ t, exec (.passThroughRead word now) s = .next t ∧ t.fmc.tally.toNat = 16 ∧ Latched .memoryLimit read t)))

/-- PIN_RESET_ASSERT, no store write in progress, holds the part in reset: the link idles, work in progress ends, and nothing else changes; a
store write in progress ends with the check cell as it stood and the other cells unknown. PIN_RESET_RELEASE starts the part: every block at its
pin-reset value, the ten counts, the tally and the monitor at 0 and both arbiters in their first position, the first FILL of the all-ones generator on the
egress, the settings, role map and mark from the store, the cells, face memory and hold input kept (R8, R15, R22, R153, R196, R197, R200, R201,
R203). That the other values stand until the release, the first FILL started, and eighth and trial position 0 are the model's
choices (log entries 11, 12, 22, 5, 16). -/
def Obligations.PinResetStartsAnew : Prop :=
  (∀ s : State, s.flm.part ≠ .held →
    ∃ t, exec .pinResetAssert s = .next t ∧ t.sus.write = .idle ∧ t.sus.cells[5] = s.sus.cells[5] ∧
      (s.sus.write = .idle → t.sus = s.sus ∧ t.freeUsed = s.freeUsed) ∧
      t = { s with
        flm := { s.flm with part := .held }
        ilu := { s.ilu with recordOpen := false, activityTimer := false }
        scu := Vector.replicate 48 none
        fmc := { s.fmc with verify := none }
        cnv := none
        rel := { s.rel with release := none }
        elu := { s.elu with link := .idleCharacters }
        sus := { s.sus with cells := t.sus.cells, write := .idle }
        freeUsed := t.freeUsed }) ∧
    ∀ s : State, s.flm.part = .held →
      let settings := (readStore s.sus.cells).getD { station := 30, mask := 0, mark := 8, linkNotices := false }
      ∃ t, exec .pinResetRelease s = .next t ∧ NoWork t ∧ t.flm = { part := .starting, latch := none } ∧
        t.sus = { cells := s.sus.cells, working := settings, storeValid := (readStore s.sus.cells).isSome, write := .idle } ∧
        (∀ st : Stream, t.stk.map[st] = { role := if settings.mask.getLsbD st.val then .own else .pass, pending := none }) ∧
        t.fmc.mark = settings.mark ∧ t.fmc.mem = s.fmc.mem ∧ t.fmc.tally = 0 ∧ t.fmc.pacing = false ∧
        (∀ k : Slot, t.fmc.slots[k] = .scrubbing) ∧ t.fmc.scrubOrder = List.finRange 48 ∧
        t.elu.holdInput = s.elu.holdInput ∧ t.elu.fifo = [] ∧ t.elu.markError = false ∧
        t.ilu.monitor.state = .hunt ∧ t.ilu.monitor.count = 0 ∧ t.ilu.activityTimer = true ∧ t.dru.notices = [] ∧
        t.dru.duty = 0 ∧ t.dru.profiles[0] = { valid := true, fields := Profile.factory } ∧
        (∀ n : Fin 32, n ≠ 0 → (t.dru.profiles[n]).valid = false) ∧ (∀ n : Fin 32, (t.dru.rules[n]).valid = false) ∧
        (∀ n : Fin 3, (t.dru.codeSlots[n]).valid = false) ∧ (∀ n : Fin 7, (t.dru.toneSlots[n]).valid = false) ∧
        t.ilu.recordOpen = false ∧ t.ilu.headerFaults = 0 ∧ t.ilu.payloadFaults = 0 ∧ t.ilu.unknownKinds = 0 ∧
        t.ilu.monitor.position = 0 ∧ t.ilu.monitor.mismatches = 0 ∧ t.ilu.eighth = 0 ∧
        t.stk.orphans = 0 ∧ t.stk.accepted = 0 ∧ t.stk.lost = 0 ∧ t.fmc.corrected = 0 ∧ t.fmc.uncorrectable = 0 ∧
        t.fmc.verify = none ∧ t.elu.overflow = 0 ∧ t.dru.lost = 0 ∧ t.elu.position = .release ∧ t.rel.position = 0 ∧
        t.elu.link = .sending .fill (recordBytes (fillRecord (fillPayload (BitVec.allOnes 15) false).1)) ∧
        t.elu.fillGen = (fillPayload (BitVec.allOnes 15) false).2 ∧ t.freeUsed = s.freeUsed ∧ t.pending = s.pending
end

