-- ==== Sys2Proof/Laws/Memory.lean ====
section
/-! SUPPORT. Laws of face memory: its operations keep the canonical form; a read after a write gives what was written, and
a write or a scrub leaves every other byte alone. -/

namespace Sys2Proof.Laws

open Sys2Proof.Machine

variable {α : Type}

/-- Every key of the list lies above `k`. -/
def keysAbove (k : Nat) (l : List (Nat × α)) : Prop := ∀ c ∈ l, k < c.1

theorem risingKeys_cons {c : Nat × α} {l : List (Nat × α)} :
    risingKeys (c :: l) = true ↔ keysAbove c.1 l ∧ risingKeys l = true := by
  induction l generalizing c with
  | nil => simp [risingKeys, keysAbove]
  | cons d rest ih =>
    simp only [risingKeys, Bool.and_eq_true, decide_eq_true_eq, ih (c := d)]
    constructor
    · rintro ⟨h, ha, hr⟩
      refine ⟨?_, ha, hr⟩
      intro e he
      rcases List.mem_cons.mp he with rfl | he
      · exact h
      · exact lt_trans h (ha e he)
    · rintro ⟨hk, ha, hr⟩
      exact ⟨hk d (by simp), ha, hr⟩

theorem risingKeys_filter (p : Nat × α → Bool) {l : List (Nat × α)} (h : risingKeys l = true) :
    risingKeys (l.filter p) = true := by
  induction l with
  | nil => simp [risingKeys]
  | cons c rest ih =>
    rw [risingKeys_cons] at h
    by_cases hp : p c = true
    · rw [List.filter_cons_of_pos hp, risingKeys_cons]
      exact ⟨fun e he => h.1 e (List.mem_filter.mp he).1, ih h.2⟩
    · rw [List.filter_cons_of_neg hp]
      exact ih h.2

theorem putKey_keys {k : Nat} {v : α} {l : List (Nat × α)} {c : Nat × α} (h : c ∈ putKey k v l) :
    c = (k, v) ∨ c ∈ l := by
  induction l with
  | nil => simpa [putKey] using h
  | cons d rest ih =>
    simp only [putKey] at h
    split at h
    · simpa using h
    · split at h
      · rcases List.mem_cons.mp h with h | h
        · exact .inl h
        · exact .inr (List.mem_cons_of_mem _ h)
      · rcases List.mem_cons.mp h with h | h
        · exact .inr (by simp [h])
        · exact (ih h).imp id (List.mem_cons_of_mem _)

theorem risingKeys_putKey (k : Nat) (v : α) {l : List (Nat × α)} (h : risingKeys l = true) :
    risingKeys (putKey k v l) = true := by
  induction l with
  | nil => simp [putKey, risingKeys]
  | cons c rest ih =>
    have hc := risingKeys_cons.mp h
    simp only [putKey]
    split
    · rename_i hk
      rw [risingKeys_cons]
      refine ⟨?_, h⟩
      intro e he
      rcases List.mem_cons.mp he with rfl | he
      · exact hk
      · exact lt_trans hk (hc.1 e he)
    · split
      · rename_i hk
        subst hk
        rw [risingKeys_cons]
        exact hc
      · rw [risingKeys_cons]
        refine ⟨?_, ih hc.2⟩
        intro e he
        rcases putKey_keys he with rfl | he
        · simp only; omega
        · exact hc.1 e he

theorem getKey_above {k : Nat} {l : List (Nat × α)} (h : keysAbove k l) : getKey k l = none := by
  induction l with
  | nil => rfl
  | cons c rest ih =>
    have hc := h c (by simp)
    rw [getKey, if_neg (by omega)]
    exact ih (fun e he => h e (List.mem_cons_of_mem _ he))

/-- A put value is found at its key, and every other key finds what it found before. -/
theorem getKey_putKey (k : Nat) (v : α) {l : List (Nat × α)} (h : risingKeys l = true) (j : Nat) :
    getKey j (putKey k v l) = if j = k then some v else getKey j l := by
  induction l with
  | nil => simp [putKey, getKey, eq_comm]
  | cons c rest ih =>
    have hc := risingKeys_cons.mp h
    simp only [putKey]
    split
    · simp [getKey, eq_comm]
    · split
      · rename_i hk
        subst hk
        by_cases hj : c.1 = j
        · simp [getKey, hj]
        · simp [getKey, hj, Ne.symm hj]
      · rename_i h1 h2
        simp only [getKey, ih hc.2]
        by_cases hj : c.1 = j
        · simp [hj, show ¬ j = k by omega]
        · simp [hj]

theorem getKey_filter_key (k : Nat) {l : List (Nat × α)} (h : risingKeys l = true) (j : Nat) :
    getKey j (l.filter (fun c => c.1 ≠ k)) = if j = k then none else getKey j l := by
  induction l with
  | nil => simp [getKey]
  | cons c rest ih =>
    have hc := risingKeys_cons.mp h
    by_cases hk : c.1 = k
    · rw [List.filter_cons_of_neg (by simp [hk]), ih hc.2]
      by_cases hj : j = k
      · simp [hj]
      · simp [getKey, hj, show ¬ c.1 = j by omega]
    · rw [List.filter_cons_of_pos (by simp [hk])]
      simp only [getKey, ih hc.2]
      by_cases hj : c.1 = j
      · simp [hj, show ¬ j = k by omega]
      · simp [hj]

theorem getKey_filter (p : Nat → Bool) (l : List (Nat × α)) (j : Nat) :
    getKey j (l.filter (fun c => p c.1)) = if p j then getKey j l else none := by
  induction l with
  | nil => simp [getKey]
  | cons c rest ih =>
    by_cases hp : p c.1 = true
    · rw [List.filter_cons_of_pos (p := fun c : Nat × α => p c.1) hp]
      simp only [getKey, ih]
      by_cases hj : c.1 = j
      · subst hj; simp [hp]
      · simp [hj]
    · rw [List.filter_cons_of_neg (p := fun c : Nat × α => p c.1) hp, ih]
      by_cases hj : c.1 = j
      · subst hj; simp [hp]
      · simp [getKey, hj]

/-! ## The canonical form -/

/-- The canonical form of the cells alone. -/
def cellsWf (cs : List Host.Cell) : Prop := risingKeys cs = true ∧ ∀ c ∈ cs, c.2 ≠ 0

/-- The canonical form of the damage alone. -/
def damageWf (d : List (Nat × ReadResult)) : Prop := risingKeys d = true ∧ ∀ c ∈ d, c.2 ≠ .clean

theorem wf_iff {m : FaceMemory} : m.wf = true ↔ cellsWf m.cells ∧ damageWf m.damage := by
  simp [FaceMemory.wf, cellsWf, damageWf, List.all_eq_true, and_assoc]

theorem cellsWf_putByte {cs : List Host.Cell} (h : cellsWf cs) (a : Nat) (v : Byte) : cellsWf (putByte a v cs) := by
  unfold putByte
  split
  · exact ⟨risingKeys_filter _ h.1, fun c hc => h.2 c (List.mem_filter.mp hc).1⟩
  · rename_i hv
    refine ⟨risingKeys_putKey _ _ h.1, fun c hc => ?_⟩
    rcases putKey_keys hc with rfl | hc
    · exact hv
    · exact h.2 c hc

theorem cellsWf_putBytes {cs : List Host.Cell} (h : cellsWf cs) (a : Nat) (vs : List Byte) : cellsWf (putBytes a vs cs) := by
  induction vs generalizing a cs with
  | nil => exact h
  | cons v vs ih => exact ih (cellsWf_putByte h a v) (a + 1)

theorem damageWf_filter {d : List (Nat × ReadResult)} (h : damageWf d) (p : Nat × ReadResult → Bool) :
    damageWf (d.filter p) :=
  ⟨risingKeys_filter _ h.1, fun c hc => h.2 c (List.mem_filter.mp hc).1⟩

/-- A write keeps the canonical form. -/
theorem wf_write {m : FaceMemory} (h : m.wf = true) (a : Nat) (vs : List Byte) : (m.write a vs).wf = true := by
  rw [wf_iff] at *
  exact ⟨cellsWf_putBytes h.1 a vs, damageWf_filter h.2 _⟩

/-- A scrub keeps the canonical form. -/
theorem wf_scrub {m : FaceMemory} (h : m.wf = true) (a n : Nat) : (m.scrub a n).wf = true := by
  rw [wf_iff] at *
  exact ⟨⟨risingKeys_filter _ h.1.1, fun c hc => h.1.2 c (List.mem_filter.mp hc).1⟩, damageWf_filter h.2 _⟩

/-- Keeping the damage a read found keeps the canonical form. -/
theorem wf_noteDamage {m : FaceMemory} (h : m.wf = true) (w : Nat) (r : ReadResult) : (m.noteDamage w r).wf = true := by
  unfold FaceMemory.noteDamage
  split
  · exact h
  · rename_i hr
    rw [wf_iff] at *
    refine ⟨h.1, risingKeys_putKey _ _ h.2.1, fun c hc => ?_⟩
    rcases putKey_keys hc with rfl | hc
    · exact hr
    · exact h.2.2 c hc

/-! ## Reads -/

theorem getKey_putByte {cs : List Host.Cell} (h : cellsWf cs) (a : Nat) (v : Byte) (b : Nat) :
    (getKey b (putByte a v cs)).getD 0 = if b = a then v else (getKey b cs).getD 0 := by
  unfold putByte
  split
  · rename_i hv
    rw [getKey_filter_key a h.1]
    split <;> simp [hv]
  · rw [getKey_putKey _ _ h.1]
    split <;> simp

theorem getKey_putBytes {cs : List Host.Cell} (h : cellsWf cs) (a : Nat) (vs : List Byte) (b : Nat) :
    (getKey b (putBytes a vs cs)).getD 0 =
      if a ≤ b ∧ b < a + vs.length then vs.getD (b - a) 0 else (getKey b cs).getD 0 := by
  induction vs generalizing a cs with
  | nil => simp [putBytes, show ¬ (a ≤ b ∧ b < a) by omega]
  | cons v vs ih =>
    rw [putBytes, ih (cellsWf_putByte h a v), getKey_putByte h]
    by_cases h1 : a + 1 ≤ b ∧ b < a + 1 + vs.length
    · rw [if_pos h1, if_pos (by simp only [List.length_cons]; omega), show b - a = (b - (a + 1)) + 1 by omega]
      simp
    · rw [if_neg h1]
      by_cases h2 : b = a
      · subst h2
        simp
      · rw [if_neg h2, if_neg (by simp only [List.length_cons]; omega)]

/-- A read after a write: the byte written inside the bytes written, every other byte as before. -/
theorem read_write {m : FaceMemory} (h : m.wf = true) (a : Nat) (vs : List Byte) (b : Nat) :
    (m.write a vs).read b = if a ≤ b ∧ b < a + vs.length then vs.getD (b - a) 0 else m.read b :=
  getKey_putBytes (wf_iff.mp h).1 a vs b

/-- A read after a scrub: zero inside the bytes scrubbed, every other byte as before. -/
theorem read_scrub (m : FaceMemory) (a n : Nat) (b : Nat) :
    (m.scrub a n).read b = if a ≤ b ∧ b < a + n then 0 else m.read b := by
  have h := getKey_filter (fun k => !decide (a ≤ k ∧ k < a + n)) m.cells b
  simp only [FaceMemory.scrub, FaceMemory.read]
  have e : (fun c : Host.Cell => decide (¬ (a ≤ c.1 ∧ c.1 < a + n))) = (fun c => !decide (a ≤ c.1 ∧ c.1 < a + n)) := by
    funext c
    by_cases hc : a ≤ c.1 ∧ c.1 < a + n <;> simp [hc]
  rw [e, h]
  by_cases hb : a ≤ b ∧ b < a + n <;> simp [hb]

/-- Keeping the damage a read found changes no byte. -/
@[simp] theorem read_noteDamage (m : FaceMemory) (w : Nat) (r : ReadResult) (b : Nat) :
    (m.noteDamage w r).read b = m.read b := by
  unfold FaceMemory.noteDamage FaceMemory.read
  split <;> rfl

/-- After a write, the words touched carry no error and every other word the error it had. -/
theorem readResult_write (m : FaceMemory) (a : Nat) (vs : List Byte) (w : Nat) :
    (m.write a vs).readResult w .clean =
      if a / 8 ≤ w ∧ 8 * w < a + vs.length then .clean else m.readResult w .clean := by
  unfold FaceMemory.readResult FaceMemory.write
  have h := getKey_filter (fun d => decide (¬ (a / 8 ≤ d ∧ 8 * d < a + vs.length))) m.damage w
  simp only [h]
  by_cases hw : a / 8 ≤ w ∧ 8 * w < a + vs.length <;> simp [hw, worse]

/-- After a scrub, the words scrubbed carry no error and every other word the error it had. -/
theorem readResult_scrub (m : FaceMemory) (a n w : Nat) :
    (m.scrub a n).readResult w .clean = if a ≤ 8 * w ∧ 8 * w < a + n then .clean else m.readResult w .clean := by
  unfold FaceMemory.readResult FaceMemory.scrub
  have h := getKey_filter (fun d => decide (¬ (a ≤ 8 * d ∧ 8 * d < a + n))) m.damage w
  simp only [h]
  by_cases hw : a ≤ 8 * w ∧ 8 * w < a + n <;> simp [hw, worse]

end Sys2Proof.Laws
end

