-- ==== Sys2Proof/Laws/State.lean ====
section
/-! SUPPORT. What each named update of the state leaves as it was, block by block: one lemma per block and update, so that no
later proof unfolds an update to see that a block is untouched. -/

namespace Sys2Proof.Laws

open Sys2Proof.Machine

/-! ## `setSlot` -/

@[simp] theorem setSlot_flm (k : Slot) (x : SlotState) (s : State) : (setSlot k x s).flm = s.flm := rfl
@[simp] theorem setSlot_ilu (k : Slot) (x : SlotState) (s : State) : (setSlot k x s).ilu = s.ilu := rfl
@[simp] theorem setSlot_stk (k : Slot) (x : SlotState) (s : State) : (setSlot k x s).stk = s.stk := rfl
@[simp] theorem setSlot_scu (k : Slot) (x : SlotState) (s : State) : (setSlot k x s).scu = s.scu := rfl
@[simp] theorem setSlot_cnv (k : Slot) (x : SlotState) (s : State) : (setSlot k x s).cnv = s.cnv := rfl
@[simp] theorem setSlot_rel (k : Slot) (x : SlotState) (s : State) : (setSlot k x s).rel = s.rel := rfl
@[simp] theorem setSlot_elu (k : Slot) (x : SlotState) (s : State) : (setSlot k x s).elu = s.elu := rfl
@[simp] theorem setSlot_dru (k : Slot) (x : SlotState) (s : State) : (setSlot k x s).dru = s.dru := rfl
@[simp] theorem setSlot_sus (k : Slot) (x : SlotState) (s : State) : (setSlot k x s).sus = s.sus := rfl
@[simp] theorem setSlot_freeUsed (k : Slot) (x : SlotState) (s : State) : (setSlot k x s).freeUsed = s.freeUsed := rfl
@[simp] theorem setSlot_pending (k : Slot) (x : SlotState) (s : State) : (setSlot k x s).pending = s.pending := rfl

/-! ## `toScrub` -/

@[simp] theorem toScrub_flm (k : Slot) (s : State) : (toScrub k s).flm = s.flm := rfl
@[simp] theorem toScrub_ilu (k : Slot) (s : State) : (toScrub k s).ilu = s.ilu := rfl
@[simp] theorem toScrub_stk (k : Slot) (s : State) : (toScrub k s).stk = s.stk := rfl
@[simp] theorem toScrub_scu (k : Slot) (s : State) : (toScrub k s).scu = s.scu := rfl
@[simp] theorem toScrub_cnv (k : Slot) (s : State) : (toScrub k s).cnv = s.cnv := rfl
@[simp] theorem toScrub_rel (k : Slot) (s : State) : (toScrub k s).rel = s.rel := rfl
@[simp] theorem toScrub_elu (k : Slot) (s : State) : (toScrub k s).elu = s.elu := rfl
@[simp] theorem toScrub_dru (k : Slot) (s : State) : (toScrub k s).dru = s.dru := rfl
@[simp] theorem toScrub_sus (k : Slot) (s : State) : (toScrub k s).sus = s.sus := rfl
@[simp] theorem toScrub_freeUsed (k : Slot) (s : State) : (toScrub k s).freeUsed = s.freeUsed := rfl
@[simp] theorem toScrub_pending (k : Slot) (s : State) : (toScrub k s).pending = s.pending := rfl

/-! ## `modItem` -/

@[simp] theorem modItem_flm (ix : ItemIx) (g : ItemRecord → ItemRecord) (s : State) : (modItem ix g s).flm = s.flm := rfl
@[simp] theorem modItem_ilu (ix : ItemIx) (g : ItemRecord → ItemRecord) (s : State) : (modItem ix g s).ilu = s.ilu := rfl
@[simp] theorem modItem_scu (ix : ItemIx) (g : ItemRecord → ItemRecord) (s : State) : (modItem ix g s).scu = s.scu := rfl
@[simp] theorem modItem_fmc (ix : ItemIx) (g : ItemRecord → ItemRecord) (s : State) : (modItem ix g s).fmc = s.fmc := rfl
@[simp] theorem modItem_cnv (ix : ItemIx) (g : ItemRecord → ItemRecord) (s : State) : (modItem ix g s).cnv = s.cnv := rfl
@[simp] theorem modItem_rel (ix : ItemIx) (g : ItemRecord → ItemRecord) (s : State) : (modItem ix g s).rel = s.rel := rfl
@[simp] theorem modItem_elu (ix : ItemIx) (g : ItemRecord → ItemRecord) (s : State) : (modItem ix g s).elu = s.elu := rfl
@[simp] theorem modItem_dru (ix : ItemIx) (g : ItemRecord → ItemRecord) (s : State) : (modItem ix g s).dru = s.dru := rfl
@[simp] theorem modItem_sus (ix : ItemIx) (g : ItemRecord → ItemRecord) (s : State) : (modItem ix g s).sus = s.sus := rfl
@[simp] theorem modItem_freeUsed (ix : ItemIx) (g : ItemRecord → ItemRecord) (s : State) : (modItem ix g s).freeUsed = s.freeUsed := rfl
@[simp] theorem modItem_pending (ix : ItemIx) (g : ItemRecord → ItemRecord) (s : State) : (modItem ix g s).pending = s.pending := rfl

/-! ## `modFace` -/

@[simp] theorem modFace_flm (ix : ItemIx) (n : Nat) (g : FaceRecord → FaceRecord) (s : State) : (modFace ix n g s).flm = s.flm := rfl
@[simp] theorem modFace_ilu (ix : ItemIx) (n : Nat) (g : FaceRecord → FaceRecord) (s : State) : (modFace ix n g s).ilu = s.ilu := rfl
@[simp] theorem modFace_scu (ix : ItemIx) (n : Nat) (g : FaceRecord → FaceRecord) (s : State) : (modFace ix n g s).scu = s.scu := rfl
@[simp] theorem modFace_fmc (ix : ItemIx) (n : Nat) (g : FaceRecord → FaceRecord) (s : State) : (modFace ix n g s).fmc = s.fmc := rfl
@[simp] theorem modFace_cnv (ix : ItemIx) (n : Nat) (g : FaceRecord → FaceRecord) (s : State) : (modFace ix n g s).cnv = s.cnv := rfl
@[simp] theorem modFace_rel (ix : ItemIx) (n : Nat) (g : FaceRecord → FaceRecord) (s : State) : (modFace ix n g s).rel = s.rel := rfl
@[simp] theorem modFace_elu (ix : ItemIx) (n : Nat) (g : FaceRecord → FaceRecord) (s : State) : (modFace ix n g s).elu = s.elu := rfl
@[simp] theorem modFace_dru (ix : ItemIx) (n : Nat) (g : FaceRecord → FaceRecord) (s : State) : (modFace ix n g s).dru = s.dru := rfl
@[simp] theorem modFace_sus (ix : ItemIx) (n : Nat) (g : FaceRecord → FaceRecord) (s : State) : (modFace ix n g s).sus = s.sus := rfl
@[simp] theorem modFace_freeUsed (ix : ItemIx) (n : Nat) (g : FaceRecord → FaceRecord) (s : State) : (modFace ix n g s).freeUsed = s.freeUsed := rfl
@[simp] theorem modFace_pending (ix : ItemIx) (n : Nat) (g : FaceRecord → FaceRecord) (s : State) : (modFace ix n g s).pending = s.pending := rfl

/-! ## `setContext` -/

@[simp] theorem setContext_flm (st : Stream) (c : StreamCtx) (s : State) : (setContext st c s).flm = s.flm := rfl
@[simp] theorem setContext_ilu (st : Stream) (c : StreamCtx) (s : State) : (setContext st c s).ilu = s.ilu := rfl
@[simp] theorem setContext_scu (st : Stream) (c : StreamCtx) (s : State) : (setContext st c s).scu = s.scu := rfl
@[simp] theorem setContext_fmc (st : Stream) (c : StreamCtx) (s : State) : (setContext st c s).fmc = s.fmc := rfl
@[simp] theorem setContext_cnv (st : Stream) (c : StreamCtx) (s : State) : (setContext st c s).cnv = s.cnv := rfl
@[simp] theorem setContext_rel (st : Stream) (c : StreamCtx) (s : State) : (setContext st c s).rel = s.rel := rfl
@[simp] theorem setContext_elu (st : Stream) (c : StreamCtx) (s : State) : (setContext st c s).elu = s.elu := rfl
@[simp] theorem setContext_dru (st : Stream) (c : StreamCtx) (s : State) : (setContext st c s).dru = s.dru := rfl
@[simp] theorem setContext_sus (st : Stream) (c : StreamCtx) (s : State) : (setContext st c s).sus = s.sus := rfl
@[simp] theorem setContext_freeUsed (st : Stream) (c : StreamCtx) (s : State) : (setContext st c s).freeUsed = s.freeUsed := rfl
@[simp] theorem setContext_pending (st : Stream) (c : StreamCtx) (s : State) : (setContext st c s).pending = s.pending := rfl

/-! ## `countHeaderFault` -/

@[simp] theorem countHeaderFault_flm (s : State) : (countHeaderFault s).flm = s.flm := rfl
@[simp] theorem countHeaderFault_stk (s : State) : (countHeaderFault s).stk = s.stk := rfl
@[simp] theorem countHeaderFault_scu (s : State) : (countHeaderFault s).scu = s.scu := rfl
@[simp] theorem countHeaderFault_fmc (s : State) : (countHeaderFault s).fmc = s.fmc := rfl
@[simp] theorem countHeaderFault_cnv (s : State) : (countHeaderFault s).cnv = s.cnv := rfl
@[simp] theorem countHeaderFault_rel (s : State) : (countHeaderFault s).rel = s.rel := rfl
@[simp] theorem countHeaderFault_elu (s : State) : (countHeaderFault s).elu = s.elu := rfl
@[simp] theorem countHeaderFault_dru (s : State) : (countHeaderFault s).dru = s.dru := rfl
@[simp] theorem countHeaderFault_sus (s : State) : (countHeaderFault s).sus = s.sus := rfl
@[simp] theorem countHeaderFault_freeUsed (s : State) : (countHeaderFault s).freeUsed = s.freeUsed := rfl
@[simp] theorem countHeaderFault_pending (s : State) : (countHeaderFault s).pending = s.pending := rfl

/-! ## `countPayloadFault` -/

@[simp] theorem countPayloadFault_flm (s : State) : (countPayloadFault s).flm = s.flm := rfl
@[simp] theorem countPayloadFault_stk (s : State) : (countPayloadFault s).stk = s.stk := rfl
@[simp] theorem countPayloadFault_scu (s : State) : (countPayloadFault s).scu = s.scu := rfl
@[simp] theorem countPayloadFault_fmc (s : State) : (countPayloadFault s).fmc = s.fmc := rfl
@[simp] theorem countPayloadFault_cnv (s : State) : (countPayloadFault s).cnv = s.cnv := rfl
@[simp] theorem countPayloadFault_rel (s : State) : (countPayloadFault s).rel = s.rel := rfl
@[simp] theorem countPayloadFault_elu (s : State) : (countPayloadFault s).elu = s.elu := rfl
@[simp] theorem countPayloadFault_dru (s : State) : (countPayloadFault s).dru = s.dru := rfl
@[simp] theorem countPayloadFault_sus (s : State) : (countPayloadFault s).sus = s.sus := rfl
@[simp] theorem countPayloadFault_freeUsed (s : State) : (countPayloadFault s).freeUsed = s.freeUsed := rfl
@[simp] theorem countPayloadFault_pending (s : State) : (countPayloadFault s).pending = s.pending := rfl

/-! ## `countOrphan` -/

@[simp] theorem countOrphan_flm (s : State) : (countOrphan s).flm = s.flm := rfl
@[simp] theorem countOrphan_ilu (s : State) : (countOrphan s).ilu = s.ilu := rfl
@[simp] theorem countOrphan_scu (s : State) : (countOrphan s).scu = s.scu := rfl
@[simp] theorem countOrphan_fmc (s : State) : (countOrphan s).fmc = s.fmc := rfl
@[simp] theorem countOrphan_cnv (s : State) : (countOrphan s).cnv = s.cnv := rfl
@[simp] theorem countOrphan_rel (s : State) : (countOrphan s).rel = s.rel := rfl
@[simp] theorem countOrphan_elu (s : State) : (countOrphan s).elu = s.elu := rfl
@[simp] theorem countOrphan_dru (s : State) : (countOrphan s).dru = s.dru := rfl
@[simp] theorem countOrphan_sus (s : State) : (countOrphan s).sus = s.sus := rfl
@[simp] theorem countOrphan_freeUsed (s : State) : (countOrphan s).freeUsed = s.freeUsed := rfl
@[simp] theorem countOrphan_pending (s : State) : (countOrphan s).pending = s.pending := rfl

/-! ## `endReceiving` -/

@[simp] theorem endReceiving_flm (s : State) : (endReceiving s).flm = s.flm := rfl
@[simp] theorem endReceiving_stk (s : State) : (endReceiving s).stk = s.stk := rfl
@[simp] theorem endReceiving_scu (s : State) : (endReceiving s).scu = s.scu := rfl
@[simp] theorem endReceiving_fmc (s : State) : (endReceiving s).fmc = s.fmc := rfl
@[simp] theorem endReceiving_cnv (s : State) : (endReceiving s).cnv = s.cnv := rfl
@[simp] theorem endReceiving_rel (s : State) : (endReceiving s).rel = s.rel := rfl
@[simp] theorem endReceiving_elu (s : State) : (endReceiving s).elu = s.elu := rfl
@[simp] theorem endReceiving_dru (s : State) : (endReceiving s).dru = s.dru := rfl
@[simp] theorem endReceiving_sus (s : State) : (endReceiving s).sus = s.sus := rfl
@[simp] theorem endReceiving_freeUsed (s : State) : (endReceiving s).freeUsed = s.freeUsed := rfl
@[simp] theorem endReceiving_pending (s : State) : (endReceiving s).pending = s.pending := rfl

/-! ## `handRows` -/

@[simp] theorem handRows_flm (k : Slot) (rows : List InputRow) (e : Bool) (s : State) : (handRows k rows e s).flm = s.flm := rfl
@[simp] theorem handRows_ilu (k : Slot) (rows : List InputRow) (e : Bool) (s : State) : (handRows k rows e s).ilu = s.ilu := rfl
@[simp] theorem handRows_stk (k : Slot) (rows : List InputRow) (e : Bool) (s : State) : (handRows k rows e s).stk = s.stk := rfl
@[simp] theorem handRows_fmc (k : Slot) (rows : List InputRow) (e : Bool) (s : State) : (handRows k rows e s).fmc = s.fmc := rfl
@[simp] theorem handRows_cnv (k : Slot) (rows : List InputRow) (e : Bool) (s : State) : (handRows k rows e s).cnv = s.cnv := rfl
@[simp] theorem handRows_rel (k : Slot) (rows : List InputRow) (e : Bool) (s : State) : (handRows k rows e s).rel = s.rel := rfl
@[simp] theorem handRows_elu (k : Slot) (rows : List InputRow) (e : Bool) (s : State) : (handRows k rows e s).elu = s.elu := rfl
@[simp] theorem handRows_dru (k : Slot) (rows : List InputRow) (e : Bool) (s : State) : (handRows k rows e s).dru = s.dru := rfl
@[simp] theorem handRows_sus (k : Slot) (rows : List InputRow) (e : Bool) (s : State) : (handRows k rows e s).sus = s.sus := rfl
@[simp] theorem handRows_freeUsed (k : Slot) (rows : List InputRow) (e : Bool) (s : State) : (handRows k rows e s).freeUsed = s.freeUsed := rfl
@[simp] theorem handRows_pending (k : Slot) (rows : List InputRow) (e : Bool) (s : State) : (handRows k rows e s).pending = s.pending := rfl

/-! ## `startFill` -/

@[simp] theorem startFill_flm (s : State) : (startFill s).flm = s.flm := by
  simp only [startFill]
@[simp] theorem startFill_ilu (s : State) : (startFill s).ilu = s.ilu := by
  simp only [startFill]
@[simp] theorem startFill_stk (s : State) : (startFill s).stk = s.stk := by
  simp only [startFill]
@[simp] theorem startFill_scu (s : State) : (startFill s).scu = s.scu := by
  simp only [startFill]
@[simp] theorem startFill_fmc (s : State) : (startFill s).fmc = s.fmc := by
  simp only [startFill]
@[simp] theorem startFill_cnv (s : State) : (startFill s).cnv = s.cnv := by
  simp only [startFill]
@[simp] theorem startFill_rel (s : State) : (startFill s).rel = s.rel := by
  simp only [startFill]
@[simp] theorem startFill_dru (s : State) : (startFill s).dru = s.dru := by
  simp only [startFill]
@[simp] theorem startFill_sus (s : State) : (startFill s).sus = s.sus := by
  simp only [startFill]
@[simp] theorem startFill_freeUsed (s : State) : (startFill s).freeUsed = s.freeUsed := by
  simp only [startFill]
@[simp] theorem startFill_pending (s : State) : (startFill s).pending = s.pending := by
  simp only [startFill]

/-! ## `pushNotice` -/

@[simp] theorem pushNotice_flm (n : Notice) (s : State) : (pushNotice n s).flm = s.flm := by
  unfold pushNotice; split <;> [rfl; (split <;> rfl)]
@[simp] theorem pushNotice_ilu (n : Notice) (s : State) : (pushNotice n s).ilu = s.ilu := by
  unfold pushNotice; split <;> [rfl; (split <;> rfl)]
@[simp] theorem pushNotice_stk (n : Notice) (s : State) : (pushNotice n s).stk = s.stk := by
  unfold pushNotice; split <;> [rfl; (split <;> rfl)]
@[simp] theorem pushNotice_scu (n : Notice) (s : State) : (pushNotice n s).scu = s.scu := by
  unfold pushNotice; split <;> [rfl; (split <;> rfl)]
@[simp] theorem pushNotice_fmc (n : Notice) (s : State) : (pushNotice n s).fmc = s.fmc := by
  unfold pushNotice; split <;> [rfl; (split <;> rfl)]
@[simp] theorem pushNotice_cnv (n : Notice) (s : State) : (pushNotice n s).cnv = s.cnv := by
  unfold pushNotice; split <;> [rfl; (split <;> rfl)]
@[simp] theorem pushNotice_rel (n : Notice) (s : State) : (pushNotice n s).rel = s.rel := by
  unfold pushNotice; split <;> [rfl; (split <;> rfl)]
@[simp] theorem pushNotice_elu (n : Notice) (s : State) : (pushNotice n s).elu = s.elu := by
  unfold pushNotice; split <;> [rfl; (split <;> rfl)]
@[simp] theorem pushNotice_sus (n : Notice) (s : State) : (pushNotice n s).sus = s.sus := by
  unfold pushNotice; split <;> [rfl; (split <;> rfl)]
@[simp] theorem pushNotice_freeUsed (n : Notice) (s : State) : (pushNotice n s).freeUsed = s.freeUsed := by
  unfold pushNotice; split <;> [rfl; (split <;> rfl)]
@[simp] theorem pushNotice_pending (n : Notice) (s : State) : (pushNotice n s).pending = s.pending := by
  unfold pushNotice; split <;> [rfl; (split <;> rfl)]

/-! ## `pushNotices` -/

@[simp] theorem pushNotices_flm (ns : List Notice) (s : State) : (pushNotices ns s).flm = s.flm := by
  induction ns generalizing s with
  | nil => rfl
  | cons n ns ih => exact (ih (pushNotice n s)).trans (by simp)
@[simp] theorem pushNotices_ilu (ns : List Notice) (s : State) : (pushNotices ns s).ilu = s.ilu := by
  induction ns generalizing s with
  | nil => rfl
  | cons n ns ih => exact (ih (pushNotice n s)).trans (by simp)
@[simp] theorem pushNotices_stk (ns : List Notice) (s : State) : (pushNotices ns s).stk = s.stk := by
  induction ns generalizing s with
  | nil => rfl
  | cons n ns ih => exact (ih (pushNotice n s)).trans (by simp)
@[simp] theorem pushNotices_scu (ns : List Notice) (s : State) : (pushNotices ns s).scu = s.scu := by
  induction ns generalizing s with
  | nil => rfl
  | cons n ns ih => exact (ih (pushNotice n s)).trans (by simp)
@[simp] theorem pushNotices_fmc (ns : List Notice) (s : State) : (pushNotices ns s).fmc = s.fmc := by
  induction ns generalizing s with
  | nil => rfl
  | cons n ns ih => exact (ih (pushNotice n s)).trans (by simp)
@[simp] theorem pushNotices_cnv (ns : List Notice) (s : State) : (pushNotices ns s).cnv = s.cnv := by
  induction ns generalizing s with
  | nil => rfl
  | cons n ns ih => exact (ih (pushNotice n s)).trans (by simp)
@[simp] theorem pushNotices_rel (ns : List Notice) (s : State) : (pushNotices ns s).rel = s.rel := by
  induction ns generalizing s with
  | nil => rfl
  | cons n ns ih => exact (ih (pushNotice n s)).trans (by simp)
@[simp] theorem pushNotices_elu (ns : List Notice) (s : State) : (pushNotices ns s).elu = s.elu := by
  induction ns generalizing s with
  | nil => rfl
  | cons n ns ih => exact (ih (pushNotice n s)).trans (by simp)
@[simp] theorem pushNotices_sus (ns : List Notice) (s : State) : (pushNotices ns s).sus = s.sus := by
  induction ns generalizing s with
  | nil => rfl
  | cons n ns ih => exact (ih (pushNotice n s)).trans (by simp)
@[simp] theorem pushNotices_freeUsed (ns : List Notice) (s : State) : (pushNotices ns s).freeUsed = s.freeUsed := by
  induction ns generalizing s with
  | nil => rfl
  | cons n ns ih => exact (ih (pushNotice n s)).trans (by simp)
@[simp] theorem pushNotices_pending (ns : List Notice) (s : State) : (pushNotices ns s).pending = s.pending := by
  induction ns generalizing s with
  | nil => rfl
  | cons n ns ih => exact (ih (pushNotice n s)).trans (by simp)

/-! ## `evalPacing` -/

@[simp] theorem evalPacing_flm (s : State) : (evalPacing s).flm = s.flm := by
  unfold evalPacing; split <;> rfl
@[simp] theorem evalPacing_ilu (s : State) : (evalPacing s).ilu = s.ilu := by
  unfold evalPacing; split <;> rfl
@[simp] theorem evalPacing_stk (s : State) : (evalPacing s).stk = s.stk := by
  unfold evalPacing; split <;> rfl
@[simp] theorem evalPacing_scu (s : State) : (evalPacing s).scu = s.scu := by
  unfold evalPacing; split <;> rfl
@[simp] theorem evalPacing_cnv (s : State) : (evalPacing s).cnv = s.cnv := by
  unfold evalPacing; split <;> rfl
@[simp] theorem evalPacing_rel (s : State) : (evalPacing s).rel = s.rel := by
  unfold evalPacing; split <;> rfl
@[simp] theorem evalPacing_elu (s : State) : (evalPacing s).elu = s.elu := by
  unfold evalPacing; split <;> rfl
@[simp] theorem evalPacing_dru (s : State) : (evalPacing s).dru = s.dru := by
  unfold evalPacing; split <;> rfl
@[simp] theorem evalPacing_sus (s : State) : (evalPacing s).sus = s.sus := by
  unfold evalPacing; split <;> rfl
@[simp] theorem evalPacing_freeUsed (s : State) : (evalPacing s).freeUsed = s.freeUsed := by
  unfold evalPacing; split <;> rfl
@[simp] theorem evalPacing_pending (s : State) : (evalPacing s).pending = s.pending := by
  unfold evalPacing; split <;> rfl

/-! ## `applyPending` -/

@[simp] theorem applyPending_flm (st : Stream) (s : State) : (applyPending st s).flm = s.flm := by
  unfold applyPending; split <;> simp
@[simp] theorem applyPending_ilu (st : Stream) (s : State) : (applyPending st s).ilu = s.ilu := by
  unfold applyPending; split <;> simp
@[simp] theorem applyPending_scu (st : Stream) (s : State) : (applyPending st s).scu = s.scu := by
  unfold applyPending; split <;> simp
@[simp] theorem applyPending_fmc (st : Stream) (s : State) : (applyPending st s).fmc = s.fmc := by
  unfold applyPending; split <;> simp
@[simp] theorem applyPending_cnv (st : Stream) (s : State) : (applyPending st s).cnv = s.cnv := by
  unfold applyPending; split <;> simp
@[simp] theorem applyPending_rel (st : Stream) (s : State) : (applyPending st s).rel = s.rel := by
  unfold applyPending; split <;> simp
@[simp] theorem applyPending_elu (st : Stream) (s : State) : (applyPending st s).elu = s.elu := by
  unfold applyPending; split <;> simp
@[simp] theorem applyPending_sus (st : Stream) (s : State) : (applyPending st s).sus = s.sus := by
  unfold applyPending; split <;> simp
@[simp] theorem applyPending_freeUsed (st : Stream) (s : State) : (applyPending st s).freeUsed = s.freeUsed := by
  unfold applyPending; split <;> simp
@[simp] theorem applyPending_pending (st : Stream) (s : State) : (applyPending st s).pending = s.pending := by
  unfold applyPending; split <;> simp

/-! ## `grantPass` -/

@[simp] theorem grantPass_flm (s : State) : (grantPass s).flm = s.flm := by
  unfold grantPass; split <;> rfl
@[simp] theorem grantPass_ilu (s : State) : (grantPass s).ilu = s.ilu := by
  unfold grantPass; split <;> rfl
@[simp] theorem grantPass_stk (s : State) : (grantPass s).stk = s.stk := by
  unfold grantPass; split <;> rfl
@[simp] theorem grantPass_scu (s : State) : (grantPass s).scu = s.scu := by
  unfold grantPass; split <;> rfl
@[simp] theorem grantPass_fmc (s : State) : (grantPass s).fmc = s.fmc := by
  unfold grantPass; split <;> rfl
@[simp] theorem grantPass_cnv (s : State) : (grantPass s).cnv = s.cnv := by
  unfold grantPass; split <;> rfl
@[simp] theorem grantPass_rel (s : State) : (grantPass s).rel = s.rel := by
  unfold grantPass; split <;> rfl
@[simp] theorem grantPass_dru (s : State) : (grantPass s).dru = s.dru := by
  unfold grantPass; split <;> rfl
@[simp] theorem grantPass_sus (s : State) : (grantPass s).sus = s.sus := by
  unfold grantPass; split <;> rfl
@[simp] theorem grantPass_freeUsed (s : State) : (grantPass s).freeUsed = s.freeUsed := by
  unfold grantPass; split <;> rfl
@[simp] theorem grantPass_pending (s : State) : (grantPass s).pending = s.pending := by
  unfold grantPass; split <;> rfl

/-! ## `bypassBoundary` -/

@[simp] theorem bypassBoundary_flm (s : State) : (bypassBoundary s).flm = s.flm := by
  unfold bypassBoundary; split <;> [rfl; (split <;> simp)]
@[simp] theorem bypassBoundary_ilu (s : State) : (bypassBoundary s).ilu = s.ilu := by
  unfold bypassBoundary; split <;> [rfl; (split <;> simp)]
@[simp] theorem bypassBoundary_stk (s : State) : (bypassBoundary s).stk = s.stk := by
  unfold bypassBoundary; split <;> [rfl; (split <;> simp)]
@[simp] theorem bypassBoundary_scu (s : State) : (bypassBoundary s).scu = s.scu := by
  unfold bypassBoundary; split <;> [rfl; (split <;> simp)]
@[simp] theorem bypassBoundary_fmc (s : State) : (bypassBoundary s).fmc = s.fmc := by
  unfold bypassBoundary; split <;> [rfl; (split <;> simp)]
@[simp] theorem bypassBoundary_cnv (s : State) : (bypassBoundary s).cnv = s.cnv := by
  unfold bypassBoundary; split <;> [rfl; (split <;> simp)]
@[simp] theorem bypassBoundary_rel (s : State) : (bypassBoundary s).rel = s.rel := by
  unfold bypassBoundary; split <;> [rfl; (split <;> simp)]
@[simp] theorem bypassBoundary_sus (s : State) : (bypassBoundary s).sus = s.sus := by
  unfold bypassBoundary; split <;> [rfl; (split <;> simp)]
@[simp] theorem bypassBoundary_freeUsed (s : State) : (bypassBoundary s).freeUsed = s.freeUsed := by
  unfold bypassBoundary; split <;> [rfl; (split <;> simp)]
@[simp] theorem bypassBoundary_pending (s : State) : (bypassBoundary s).pending = s.pending := by
  unfold bypassBoundary; split <;> [rfl; (split <;> simp)]

/-! ## `wakeLink` -/

@[simp] theorem wakeLink_flm (s : State) : (wakeLink s).flm = s.flm := by
  unfold wakeLink; split <;> simp
@[simp] theorem wakeLink_ilu (s : State) : (wakeLink s).ilu = s.ilu := by
  unfold wakeLink; split <;> simp
@[simp] theorem wakeLink_stk (s : State) : (wakeLink s).stk = s.stk := by
  unfold wakeLink; split <;> simp
@[simp] theorem wakeLink_scu (s : State) : (wakeLink s).scu = s.scu := by
  unfold wakeLink; split <;> simp
@[simp] theorem wakeLink_fmc (s : State) : (wakeLink s).fmc = s.fmc := by
  unfold wakeLink; split <;> simp
@[simp] theorem wakeLink_cnv (s : State) : (wakeLink s).cnv = s.cnv := by
  unfold wakeLink; split <;> simp
@[simp] theorem wakeLink_rel (s : State) : (wakeLink s).rel = s.rel := by
  unfold wakeLink; split <;> simp
@[simp] theorem wakeLink_sus (s : State) : (wakeLink s).sus = s.sus := by
  unfold wakeLink; split <;> simp
@[simp] theorem wakeLink_freeUsed (s : State) : (wakeLink s).freeUsed = s.freeUsed := by
  unfold wakeLink; split <;> simp
@[simp] theorem wakeLink_pending (s : State) : (wakeLink s).pending = s.pending := by
  unfold wakeLink; split <;> simp

/-! ## `offerPass` -/

@[simp] theorem offerPass_flm (r : Record) (s : State) : (offerPass r s).flm = s.flm := by
  unfold offerPass; split <;> simp
@[simp] theorem offerPass_ilu (r : Record) (s : State) : (offerPass r s).ilu = s.ilu := by
  unfold offerPass; split <;> simp
@[simp] theorem offerPass_stk (r : Record) (s : State) : (offerPass r s).stk = s.stk := by
  unfold offerPass; split <;> simp
@[simp] theorem offerPass_scu (r : Record) (s : State) : (offerPass r s).scu = s.scu := by
  unfold offerPass; split <;> simp
@[simp] theorem offerPass_cnv (r : Record) (s : State) : (offerPass r s).cnv = s.cnv := by
  unfold offerPass; split <;> simp
@[simp] theorem offerPass_rel (r : Record) (s : State) : (offerPass r s).rel = s.rel := by
  unfold offerPass; split <;> simp
@[simp] theorem offerPass_sus (r : Record) (s : State) : (offerPass r s).sus = s.sus := by
  unfold offerPass; split <;> simp
@[simp] theorem offerPass_freeUsed (r : Record) (s : State) : (offerPass r s).freeUsed = s.freeUsed := by
  unfold offerPass; split <;> simp
@[simp] theorem offerPass_pending (r : Record) (s : State) : (offerPass r s).pending = s.pending := by
  unfold offerPass; split <;> simp

/-! ## `writeGrey` -/

@[simp] theorem writeGrey_flm (k : Slot) (n : Nat) (row : List Byte) (s : State) : (writeGrey k n row s).flm = s.flm := by
  unfold writeGrey; split <;> rfl
@[simp] theorem writeGrey_ilu (k : Slot) (n : Nat) (row : List Byte) (s : State) : (writeGrey k n row s).ilu = s.ilu := by
  unfold writeGrey; split <;> rfl
@[simp] theorem writeGrey_stk (k : Slot) (n : Nat) (row : List Byte) (s : State) : (writeGrey k n row s).stk = s.stk := by
  unfold writeGrey; split <;> rfl
@[simp] theorem writeGrey_scu (k : Slot) (n : Nat) (row : List Byte) (s : State) : (writeGrey k n row s).scu = s.scu := by
  unfold writeGrey; split <;> rfl
@[simp] theorem writeGrey_cnv (k : Slot) (n : Nat) (row : List Byte) (s : State) : (writeGrey k n row s).cnv = s.cnv := by
  unfold writeGrey; split <;> rfl
@[simp] theorem writeGrey_rel (k : Slot) (n : Nat) (row : List Byte) (s : State) : (writeGrey k n row s).rel = s.rel := by
  unfold writeGrey; split <;> rfl
@[simp] theorem writeGrey_elu (k : Slot) (n : Nat) (row : List Byte) (s : State) : (writeGrey k n row s).elu = s.elu := by
  unfold writeGrey; split <;> rfl
@[simp] theorem writeGrey_dru (k : Slot) (n : Nat) (row : List Byte) (s : State) : (writeGrey k n row s).dru = s.dru := by
  unfold writeGrey; split <;> rfl
@[simp] theorem writeGrey_sus (k : Slot) (n : Nat) (row : List Byte) (s : State) : (writeGrey k n row s).sus = s.sus := by
  unfold writeGrey; split <;> rfl
@[simp] theorem writeGrey_freeUsed (k : Slot) (n : Nat) (row : List Byte) (s : State) : (writeGrey k n row s).freeUsed = s.freeUsed := by
  unfold writeGrey; split <;> rfl
@[simp] theorem writeGrey_pending (k : Slot) (n : Nat) (row : List Byte) (s : State) : (writeGrey k n row s).pending = s.pending := by
  unfold writeGrey; split <;> rfl

/-! ## `writeCoded` -/

@[simp] theorem writeCoded_flm (k : Slot) (w : Nat) (bytes : List Byte) (s : State) : (writeCoded k w bytes s).flm = s.flm := by
  unfold writeCoded; split <;> rfl
@[simp] theorem writeCoded_ilu (k : Slot) (w : Nat) (bytes : List Byte) (s : State) : (writeCoded k w bytes s).ilu = s.ilu := by
  unfold writeCoded; split <;> rfl
@[simp] theorem writeCoded_stk (k : Slot) (w : Nat) (bytes : List Byte) (s : State) : (writeCoded k w bytes s).stk = s.stk := by
  unfold writeCoded; split <;> rfl
@[simp] theorem writeCoded_scu (k : Slot) (w : Nat) (bytes : List Byte) (s : State) : (writeCoded k w bytes s).scu = s.scu := by
  unfold writeCoded; split <;> rfl
@[simp] theorem writeCoded_cnv (k : Slot) (w : Nat) (bytes : List Byte) (s : State) : (writeCoded k w bytes s).cnv = s.cnv := by
  unfold writeCoded; split <;> rfl
@[simp] theorem writeCoded_rel (k : Slot) (w : Nat) (bytes : List Byte) (s : State) : (writeCoded k w bytes s).rel = s.rel := by
  unfold writeCoded; split <;> rfl
@[simp] theorem writeCoded_elu (k : Slot) (w : Nat) (bytes : List Byte) (s : State) : (writeCoded k w bytes s).elu = s.elu := by
  unfold writeCoded; split <;> rfl
@[simp] theorem writeCoded_dru (k : Slot) (w : Nat) (bytes : List Byte) (s : State) : (writeCoded k w bytes s).dru = s.dru := by
  unfold writeCoded; split <;> rfl
@[simp] theorem writeCoded_sus (k : Slot) (w : Nat) (bytes : List Byte) (s : State) : (writeCoded k w bytes s).sus = s.sus := by
  unfold writeCoded; split <;> rfl
@[simp] theorem writeCoded_freeUsed (k : Slot) (w : Nat) (bytes : List Byte) (s : State) : (writeCoded k w bytes s).freeUsed = s.freeUsed := by
  unfold writeCoded; split <;> rfl
@[simp] theorem writeCoded_pending (k : Slot) (w : Nat) (bytes : List Byte) (s : State) : (writeCoded k w bytes s).pending = s.pending := by
  unfold writeCoded; split <;> rfl

/-! ## `checkQuiesced` -/

@[simp] theorem checkQuiesced_flm (s : State) : (checkQuiesced s).flm = s.flm := by
  unfold checkQuiesced; split <;> simp
@[simp] theorem checkQuiesced_ilu (s : State) : (checkQuiesced s).ilu = s.ilu := by
  unfold checkQuiesced; split <;> simp
@[simp] theorem checkQuiesced_stk (s : State) : (checkQuiesced s).stk = s.stk := by
  unfold checkQuiesced; split <;> simp
@[simp] theorem checkQuiesced_scu (s : State) : (checkQuiesced s).scu = s.scu := by
  unfold checkQuiesced; split <;> simp
@[simp] theorem checkQuiesced_fmc (s : State) : (checkQuiesced s).fmc = s.fmc := by
  unfold checkQuiesced; split <;> simp
@[simp] theorem checkQuiesced_cnv (s : State) : (checkQuiesced s).cnv = s.cnv := by
  unfold checkQuiesced; split <;> simp
@[simp] theorem checkQuiesced_rel (s : State) : (checkQuiesced s).rel = s.rel := by
  unfold checkQuiesced; split <;> simp
@[simp] theorem checkQuiesced_elu (s : State) : (checkQuiesced s).elu = s.elu := by
  unfold checkQuiesced; split <;> simp
@[simp] theorem checkQuiesced_sus (s : State) : (checkQuiesced s).sus = s.sus := by
  unfold checkQuiesced; split <;> simp
@[simp] theorem checkQuiesced_freeUsed (s : State) : (checkQuiesced s).freeUsed = s.freeUsed := by
  unfold checkQuiesced; split <;> simp
@[simp] theorem checkQuiesced_pending (s : State) : (checkQuiesced s).pending = s.pending := by
  unfold checkQuiesced; split <;> simp

/-! ## `tryFree` -/

@[simp] theorem tryFree_flm (ix : ItemIx) (s : State) : (tryFree ix s).flm = s.flm := by
  unfold tryFree; split <;> [rfl; (split <;> simp)]
@[simp] theorem tryFree_ilu (ix : ItemIx) (s : State) : (tryFree ix s).ilu = s.ilu := by
  unfold tryFree; split <;> [rfl; (split <;> simp)]
@[simp] theorem tryFree_scu (ix : ItemIx) (s : State) : (tryFree ix s).scu = s.scu := by
  unfold tryFree; split <;> [rfl; (split <;> simp)]
@[simp] theorem tryFree_fmc (ix : ItemIx) (s : State) : (tryFree ix s).fmc = s.fmc := by
  unfold tryFree; split <;> [rfl; (split <;> simp)]
@[simp] theorem tryFree_cnv (ix : ItemIx) (s : State) : (tryFree ix s).cnv = s.cnv := by
  unfold tryFree; split <;> [rfl; (split <;> simp)]
@[simp] theorem tryFree_elu (ix : ItemIx) (s : State) : (tryFree ix s).elu = s.elu := by
  unfold tryFree; split <;> [rfl; (split <;> simp)]
@[simp] theorem tryFree_sus (ix : ItemIx) (s : State) : (tryFree ix s).sus = s.sus := by
  unfold tryFree; split <;> [rfl; (split <;> simp)]
@[simp] theorem tryFree_freeUsed (ix : ItemIx) (s : State) : (tryFree ix s).freeUsed = s.freeUsed := by
  unfold tryFree; split <;> [rfl; (split <;> simp)]
@[simp] theorem tryFree_pending (ix : ItemIx) (s : State) : (tryFree ix s).pending = s.pending := by
  unfold tryFree; split <;> [rfl; (split <;> simp)]

/-! ## `countResult`, the result being no uncorrectable one -/

@[simp] theorem countResult_flm (r : ReadResult) (h : r ≠ .uncorrectable) (s : State) : (countResult r s).flm = s.flm := by
  cases r <;> first | rfl | exact absurd rfl h
@[simp] theorem countResult_ilu (r : ReadResult) (h : r ≠ .uncorrectable) (s : State) : (countResult r s).ilu = s.ilu := by
  cases r <;> first | rfl | exact absurd rfl h
@[simp] theorem countResult_stk (r : ReadResult) (h : r ≠ .uncorrectable) (s : State) : (countResult r s).stk = s.stk := by
  cases r <;> first | rfl | exact absurd rfl h
@[simp] theorem countResult_scu (r : ReadResult) (h : r ≠ .uncorrectable) (s : State) : (countResult r s).scu = s.scu := by
  cases r <;> first | rfl | exact absurd rfl h
@[simp] theorem countResult_cnv (r : ReadResult) (h : r ≠ .uncorrectable) (s : State) : (countResult r s).cnv = s.cnv := by
  cases r <;> first | rfl | exact absurd rfl h
@[simp] theorem countResult_rel (r : ReadResult) (h : r ≠ .uncorrectable) (s : State) : (countResult r s).rel = s.rel := by
  cases r <;> first | rfl | exact absurd rfl h
@[simp] theorem countResult_elu (r : ReadResult) (h : r ≠ .uncorrectable) (s : State) : (countResult r s).elu = s.elu := by
  cases r <;> first | rfl | exact absurd rfl h
@[simp] theorem countResult_dru (r : ReadResult) (h : r ≠ .uncorrectable) (s : State) : (countResult r s).dru = s.dru := by
  cases r <;> first | rfl | exact absurd rfl h
@[simp] theorem countResult_sus (r : ReadResult) (h : r ≠ .uncorrectable) (s : State) : (countResult r s).sus = s.sus := by
  cases r <;> first | rfl | exact absurd rfl h
@[simp] theorem countResult_freeUsed (r : ReadResult) (h : r ≠ .uncorrectable) (s : State) : (countResult r s).freeUsed = s.freeUsed := by
  cases r <;> first | rfl | exact absurd rfl h
@[simp] theorem countResult_pending (r : ReadResult) (h : r ≠ .uncorrectable) (s : State) : (countResult r s).pending = s.pending := by
  cases r <;> first | rfl | exact absurd rfl h

/-! ## `restartTimer` -/

@[simp] theorem restartTimer_flm (st : Stream) (ix : ItemIx) (s : State) : (restartTimer st ix s).flm = s.flm := by
  unfold restartTimer; split <;> simp
@[simp] theorem restartTimer_ilu (st : Stream) (ix : ItemIx) (s : State) : (restartTimer st ix s).ilu = s.ilu := by
  unfold restartTimer; split <;> simp
@[simp] theorem restartTimer_scu (st : Stream) (ix : ItemIx) (s : State) : (restartTimer st ix s).scu = s.scu := by
  unfold restartTimer; split <;> simp
@[simp] theorem restartTimer_fmc (st : Stream) (ix : ItemIx) (s : State) : (restartTimer st ix s).fmc = s.fmc := by
  unfold restartTimer; split <;> simp
@[simp] theorem restartTimer_cnv (st : Stream) (ix : ItemIx) (s : State) : (restartTimer st ix s).cnv = s.cnv := by
  unfold restartTimer; split <;> simp
@[simp] theorem restartTimer_rel (st : Stream) (ix : ItemIx) (s : State) : (restartTimer st ix s).rel = s.rel := by
  unfold restartTimer; split <;> simp
@[simp] theorem restartTimer_elu (st : Stream) (ix : ItemIx) (s : State) : (restartTimer st ix s).elu = s.elu := by
  unfold restartTimer; split <;> simp
@[simp] theorem restartTimer_dru (st : Stream) (ix : ItemIx) (s : State) : (restartTimer st ix s).dru = s.dru := by
  unfold restartTimer; split <;> simp
@[simp] theorem restartTimer_sus (st : Stream) (ix : ItemIx) (s : State) : (restartTimer st ix s).sus = s.sus := by
  unfold restartTimer; split <;> simp
@[simp] theorem restartTimer_freeUsed (st : Stream) (ix : ItemIx) (s : State) : (restartTimer st ix s).freeUsed = s.freeUsed := by
  unfold restartTimer; split <;> simp
@[simp] theorem restartTimer_pending (st : Stream) (ix : ItemIx) (s : State) : (restartTimer st ix s).pending = s.pending := by
  unfold restartTimer; split <;> simp

/-! ## `decideItem`, no parity error in its read -/

@[simp] theorem decideItem_flm (p : Option ParityRead) (h : p ≠ some .release) (ix : ItemIx) (s : State) :
    (decideItem p ix s).flm = s.flm := by
  unfold decideItem; split <;> [rfl; (rw [if_neg h]; split <;> simp)]
@[simp] theorem decideItem_ilu (p : Option ParityRead) (h : p ≠ some .release) (ix : ItemIx) (s : State) :
    (decideItem p ix s).ilu = s.ilu := by
  unfold decideItem; split <;> [rfl; (rw [if_neg h]; split <;> simp)]
@[simp] theorem decideItem_scu (p : Option ParityRead) (h : p ≠ some .release) (ix : ItemIx) (s : State) :
    (decideItem p ix s).scu = s.scu := by
  unfold decideItem; split <;> [rfl; (rw [if_neg h]; split <;> simp)]
@[simp] theorem decideItem_fmc (p : Option ParityRead) (h : p ≠ some .release) (ix : ItemIx) (s : State) :
    (decideItem p ix s).fmc = s.fmc := by
  unfold decideItem; split <;> [rfl; (rw [if_neg h]; split <;> simp)]
@[simp] theorem decideItem_cnv (p : Option ParityRead) (h : p ≠ some .release) (ix : ItemIx) (s : State) :
    (decideItem p ix s).cnv = s.cnv := by
  unfold decideItem; split <;> [rfl; (rw [if_neg h]; split <;> simp)]
@[simp] theorem decideItem_rel (p : Option ParityRead) (h : p ≠ some .release) (ix : ItemIx) (s : State) :
    (decideItem p ix s).rel = s.rel := by
  unfold decideItem; split <;> [rfl; (rw [if_neg h]; split <;> simp)]
@[simp] theorem decideItem_elu (p : Option ParityRead) (h : p ≠ some .release) (ix : ItemIx) (s : State) :
    (decideItem p ix s).elu = s.elu := by
  unfold decideItem; split <;> [rfl; (rw [if_neg h]; split <;> simp)]
@[simp] theorem decideItem_dru (p : Option ParityRead) (h : p ≠ some .release) (ix : ItemIx) (s : State) :
    (decideItem p ix s).dru = s.dru := by
  unfold decideItem; split <;> [rfl; (rw [if_neg h]; split <;> simp)]
@[simp] theorem decideItem_sus (p : Option ParityRead) (h : p ≠ some .release) (ix : ItemIx) (s : State) :
    (decideItem p ix s).sus = s.sus := by
  unfold decideItem; split <;> [rfl; (rw [if_neg h]; split <;> simp)]
@[simp] theorem decideItem_freeUsed (p : Option ParityRead) (h : p ≠ some .release) (ix : ItemIx) (s : State) :
    (decideItem p ix s).freeUsed = s.freeUsed := by
  unfold decideItem; split <;> [rfl; (rw [if_neg h]; split <;> simp)]
@[simp] theorem decideItem_pending (p : Option ParityRead) (h : p ≠ some .release) (ix : ItemIx) (s : State) :
    (decideItem p ix s).pending = s.pending := by
  unfold decideItem; split <;> [rfl; (rw [if_neg h]; split <;> simp)]

/-! ## `passFences` -/

@[simp] theorem passFences_flm (st : Stream) (s : State) : (passFences st s).flm = s.flm := by
  unfold passFences; simp
@[simp] theorem passFences_ilu (st : Stream) (s : State) : (passFences st s).ilu = s.ilu := by
  unfold passFences; simp
@[simp] theorem passFences_stk (st : Stream) (s : State) : (passFences st s).stk = s.stk := by
  unfold passFences; simp
@[simp] theorem passFences_scu (st : Stream) (s : State) : (passFences st s).scu = s.scu := by
  unfold passFences; simp
@[simp] theorem passFences_fmc (st : Stream) (s : State) : (passFences st s).fmc = s.fmc := by
  unfold passFences; simp
@[simp] theorem passFences_cnv (st : Stream) (s : State) : (passFences st s).cnv = s.cnv := by
  unfold passFences; simp
@[simp] theorem passFences_elu (st : Stream) (s : State) : (passFences st s).elu = s.elu := by
  unfold passFences; simp
@[simp] theorem passFences_sus (st : Stream) (s : State) : (passFences st s).sus = s.sus := by
  unfold passFences; simp
@[simp] theorem passFences_freeUsed (st : Stream) (s : State) : (passFences st s).freeUsed = s.freeUsed := by
  unfold passFences; simp
@[simp] theorem passFences_pending (st : Stream) (s : State) : (passFences st s).pending = s.pending := by
  unfold passFences; simp

/-! ## `grantNotice` -/

@[simp] theorem grantNotice_flm (s : State) : (grantNotice s).flm = s.flm := by
  unfold grantNotice; split <;> rfl
@[simp] theorem grantNotice_ilu (s : State) : (grantNotice s).ilu = s.ilu := by
  unfold grantNotice; split <;> rfl
@[simp] theorem grantNotice_stk (s : State) : (grantNotice s).stk = s.stk := by
  unfold grantNotice; split <;> rfl
@[simp] theorem grantNotice_scu (s : State) : (grantNotice s).scu = s.scu := by
  unfold grantNotice; split <;> rfl
@[simp] theorem grantNotice_fmc (s : State) : (grantNotice s).fmc = s.fmc := by
  unfold grantNotice; split <;> rfl
@[simp] theorem grantNotice_cnv (s : State) : (grantNotice s).cnv = s.cnv := by
  unfold grantNotice; split <;> rfl
@[simp] theorem grantNotice_rel (s : State) : (grantNotice s).rel = s.rel := by
  unfold grantNotice; split <;> rfl
@[simp] theorem grantNotice_sus (s : State) : (grantNotice s).sus = s.sus := by
  unfold grantNotice; split <;> rfl
@[simp] theorem grantNotice_freeUsed (s : State) : (grantNotice s).freeUsed = s.freeUsed := by
  unfold grantNotice; split <;> rfl
@[simp] theorem grantNotice_pending (s : State) : (grantNotice s).pending = s.pending := by
  unfold grantNotice; split <;> rfl

/-! ## `setMonitor` -/

@[simp] theorem setMonitor_flm (m : Monitor) (s : State) : (setMonitor m s).flm = s.flm := by
  unfold setMonitor; simp only []; split <;> simp
@[simp] theorem setMonitor_stk (m : Monitor) (s : State) : (setMonitor m s).stk = s.stk := by
  unfold setMonitor; simp only []; split <;> simp
@[simp] theorem setMonitor_scu (m : Monitor) (s : State) : (setMonitor m s).scu = s.scu := by
  unfold setMonitor; simp only []; split <;> simp
@[simp] theorem setMonitor_fmc (m : Monitor) (s : State) : (setMonitor m s).fmc = s.fmc := by
  unfold setMonitor; simp only []; split <;> simp
@[simp] theorem setMonitor_cnv (m : Monitor) (s : State) : (setMonitor m s).cnv = s.cnv := by
  unfold setMonitor; simp only []; split <;> simp
@[simp] theorem setMonitor_rel (m : Monitor) (s : State) : (setMonitor m s).rel = s.rel := by
  unfold setMonitor; simp only []; split <;> simp
@[simp] theorem setMonitor_elu (m : Monitor) (s : State) : (setMonitor m s).elu = s.elu := by
  unfold setMonitor; simp only []; split <;> simp
@[simp] theorem setMonitor_sus (m : Monitor) (s : State) : (setMonitor m s).sus = s.sus := by
  unfold setMonitor; simp only []; split <;> simp
@[simp] theorem setMonitor_freeUsed (m : Monitor) (s : State) : (setMonitor m s).freeUsed = s.freeUsed := by
  unfold setMonitor; simp only []; split <;> simp
@[simp] theorem setMonitor_pending (m : Monitor) (s : State) : (setMonitor m s).pending = s.pending := by
  unfold setMonitor; simp only []; split <;> simp

/-! ## `answer` -/

@[simp] theorem answer_flm (p : List Byte) (tag : Tag) (st : Status) (fields : List Byte) (s : State) : (answer p tag st fields s).flm = s.flm := by
  unfold answer; simp
@[simp] theorem answer_ilu (p : List Byte) (tag : Tag) (st : Status) (fields : List Byte) (s : State) : (answer p tag st fields s).ilu = s.ilu := by
  unfold answer; simp
@[simp] theorem answer_stk (p : List Byte) (tag : Tag) (st : Status) (fields : List Byte) (s : State) : (answer p tag st fields s).stk = s.stk := by
  unfold answer; simp
@[simp] theorem answer_scu (p : List Byte) (tag : Tag) (st : Status) (fields : List Byte) (s : State) : (answer p tag st fields s).scu = s.scu := by
  unfold answer; simp
@[simp] theorem answer_fmc (p : List Byte) (tag : Tag) (st : Status) (fields : List Byte) (s : State) : (answer p tag st fields s).fmc = s.fmc := by
  unfold answer; simp
@[simp] theorem answer_cnv (p : List Byte) (tag : Tag) (st : Status) (fields : List Byte) (s : State) : (answer p tag st fields s).cnv = s.cnv := by
  unfold answer; simp
@[simp] theorem answer_rel (p : List Byte) (tag : Tag) (st : Status) (fields : List Byte) (s : State) : (answer p tag st fields s).rel = s.rel := by
  unfold answer; simp
@[simp] theorem answer_elu (p : List Byte) (tag : Tag) (st : Status) (fields : List Byte) (s : State) : (answer p tag st fields s).elu = s.elu := by
  unfold answer; simp
@[simp] theorem answer_sus (p : List Byte) (tag : Tag) (st : Status) (fields : List Byte) (s : State) : (answer p tag st fields s).sus = s.sus := by
  unfold answer; simp
@[simp] theorem answer_freeUsed (p : List Byte) (tag : Tag) (st : Status) (fields : List Byte) (s : State) : (answer p tag st fields s).freeUsed = s.freeUsed := by
  unfold answer; simp
@[simp] theorem answer_pending (p : List Byte) (tag : Tag) (st : Status) (fields : List Byte) (s : State) : (answer p tag st fields s).pending = s.pending := by
  unfold answer; simp

/-! ## `released`: the egress, whose first FILL no proof has to compute -/

theorem reset_fillGen : State.reset.elu.fillGen = firstFill.2 := by simp only [State.reset]
theorem reset_link : State.reset.elu.link = .sending .fill (recordBytes (fillRecord firstFill.1)) := by simp only [State.reset]
@[simp] theorem released_fillGen (s : State) : (released s).elu.fillGen = (fillPayload (BitVec.allOnes 15) false).2 := by
  simp only [released, reset_fillGen, firstFill]
@[simp] theorem released_link (s : State) :
    (released s).elu.link = .sending .fill (recordBytes (fillRecord (fillPayload (BitVec.allOnes 15) false).1)) := by
  simp only [released, reset_link, firstFill]
@[simp] theorem released_holdInput (s : State) : (released s).elu.holdInput = s.elu.holdInput := rfl
@[simp] theorem released_mem (s : State) : (released s).fmc.mem = s.fmc.mem := rfl
@[simp] theorem released_freeUsed (s : State) : (released s).freeUsed = s.freeUsed := rfl
@[simp] theorem released_pending (s : State) : (released s).pending = s.pending := rfl

end Sys2Proof.Laws
end

