-- ==== Sys2Proof/Laws/Evolve.lean ====
section
/-! SUPPORT. What every operation of the part respects, said once: `Evolves s t` lists what holds of any state `t` that the
part's operations make from `s` outside pin reset. Each operation has one lemma; the invariants follow from them. -/

namespace Sys2Proof.Laws

open Sys2Proof.Machine Sys2Proof.Safety

/-- The part holds no work in this state's part state. -/
def workless (s : State) : Prop := s.flm.part = .starting ∨ s.flm.part = .bypass

/-- `t` comes from `s` by operations of the part outside pin reset. -/
structure Evolves (s t : State) : Prop where
  pending : t.pending = s.pending
  working : t.sus.working = s.sus.working ∧ t.sus.storeValid = s.sus.storeValid
  tally : s.fmc.tally.toNat ≤ t.fmc.tally.toNat
  flm : t.flm = s.flm ∨
    (s.flm.latch = none ∧ (s.flm.part = .starting ∨ s.flm.part = .operating) ∧ t.flm.part = .bypass ∧ t.flm.latch ≠ none)
  link : LinkSound s → LinkSound t
  fifo : FifoSound s → FifoSound t
  queues : QueuesBounded s → QueuesBounded t
  work : WorkOnlyInOperating s → WorkOnlyInOperating t
  slots : SlotsAccounted s → SlotsAccounted t
  mem : MemoryCanonical s → MemoryCanonical t
  wiped : FreeSlotsWiped s → FreeSlotsWiped t

theorem Evolves.refl (s : State) : Evolves s s := by
  constructor <;> simp

theorem Evolves.trans {s t u : State} (h : Evolves s t) (k : Evolves t u) : Evolves s u where
  pending := k.pending.trans h.pending
  working := ⟨k.working.1.trans h.working.1, k.working.2.trans h.working.2⟩
  tally := h.tally.trans k.tally
  flm := by
    rcases h.flm with e | ⟨a, b, c, d⟩
    · rw [← e]; exact k.flm
    · right
      rcases k.flm with e | ⟨a', -, -, -⟩
      · rw [e]; exact ⟨a, b, c, d⟩
      · exact absurd a' d
  link x := k.link (h.link x)
  fifo x := k.fifo (h.fifo x)
  queues x := k.queues (h.queues x)
  work x := k.work (h.work x)
  slots x := k.slots (h.slots x)
  mem x := k.mem (h.mem x)
  wiped x := k.wiped (h.wiped x)

/-! ## One block changes -/

theorem Evolves.ofIlu (s : State) (x : Ilu) : Evolves s { s with ilu := x } := by
  exact ⟨rfl, ⟨rfl, rfl⟩, le_rfl, .inl rfl, id, id, id, fun w p => { w p with }, id, id, id⟩

theorem Evolves.ofStk (s : State) (x : Stk) (h : workless s → NoWork s → NoWork { s with stk := x }) :
    Evolves s { s with stk := x } where
  pending := rfl
  working := ⟨rfl, rfl⟩
  tally := le_rfl
  flm := .inl rfl
  link := id
  fifo := id
  queues := id
  work w p := h p (w p)
  slots := id
  mem := id
  wiped := id

theorem Evolves.ofCnv (s : State) (x : Option Work) (h : workless s → NoWork s → x = none) : Evolves s { s with cnv := x } where
  pending := rfl
  working := ⟨rfl, rfl⟩
  tally := le_rfl
  flm := .inl rfl
  link := id
  fifo := id
  queues := id
  work w p := by
    exact { w p with converting := h p (w p) }
  slots := id
  mem := id
  wiped := id

theorem Evolves.ofRel (s : State) (x : Rel) (h : workless s → NoWork s → NoWork { s with rel := x })
    (q : QueuesBounded s → ∀ st : Stream, fenceCount x.queues[st] ≤ Config.fenceCapacity) :
    Evolves s { s with rel := x } where
  pending := rfl
  working := ⟨rfl, rfl⟩
  tally := le_rfl
  flm := .inl rfl
  link := id
  fifo := id
  queues b := ⟨b.1, b.2.1, b.2.2.1, q b⟩
  work w p := h p (w p)
  slots := id
  mem := id
  wiped := id

theorem Evolves.ofElu (s : State) (x : Elu) (l : LinkSound s → LinkSound { s with elu := x })
    (f : FifoSound s → FifoSound { s with elu := x }) : Evolves s { s with elu := x } where
  pending := rfl
  working := ⟨rfl, rfl⟩
  tally := le_rfl
  flm := .inl rfl
  link := l
  fifo := f
  queues := id
  work w p := { w p with }
  slots := id
  mem := id
  wiped := id

theorem Evolves.ofDru (s : State) (x : Dru) (h : workless s → NoWork s → x.quiesce = .running ∧ x.owed = [])
    (q : QueuesBounded s → x.notices.length ≤ Config.noticeCapacity ∧ x.owed.length ≤ Config.owedCapacity ∧
      (x.quiesce ≠ .quiescing → x.owed = [])) :
    Evolves s { s with dru := x } where
  pending := rfl
  working := ⟨rfl, rfl⟩
  tally := le_rfl
  flm := .inl rfl
  link := id
  fifo := id
  queues b := ⟨(q b).1, (q b).2.1, (q b).2.2, b.2.2.2⟩
  work w p := { w p with running := (h p (w p)).1, owed := (h p (w p)).2 }
  slots := id
  mem := id
  wiped := id

theorem Evolves.ofSus (s : State) (x : Sus) (h : x.working = s.sus.working ∧ x.storeValid = s.sus.storeValid) :
    Evolves s { s with sus := x } where
  pending := rfl
  working := h
  tally := le_rfl
  flm := .inl rfl
  link := id
  fifo := id
  queues := id
  work w p := { w p with }
  slots := id
  mem := id
  wiped := id

theorem Evolves.ofScu (s : State) (x : Vector (Option ScaleCtx) 48) (h : workless s → NoWork s → ∀ k : Slot, x[k] = none)
    (w : ScalingWithinSlot s → ScalingWithinSlot { s with scu := x }) : Evolves s { s with scu := x } where
  pending := rfl
  working := ⟨rfl, rfl⟩
  tally := le_rfl
  flm := .inl rfl
  link := id
  fifo := id
  queues := id
  work a p := { a p with scaling := h p (a p) }
  slots := id
  mem := id
  wiped a := ⟨a.1, w a.2.1, a.2.2⟩

theorem Evolves.ofFmc (s : State) (x : Fmc) (t : s.fmc.tally.toNat ≤ x.tally.toNat)
    (h : workless s → NoWork s → x.ready = [] ∧ ∀ k : Slot, isHeldSlot x.slots[k] = false)
    (a : SlotsAccounted s → SlotsAccounted { s with fmc := x }) (m : MemoryCanonical s → x.mem.wf = true)
    (w : FreeSlotsWiped s → ∀ k : Slot, x.slots[k] = .free → SlotWiped { s with fmc := x } k) :
    Evolves s { s with fmc := x } where
  pending := rfl
  working := ⟨rfl, rfl⟩
  tally := t
  flm := .inl rfl
  link := id
  fifo := id
  queues := id
  work v p := { v p with ready := (h p (v p)).1, notHeld := (h p (v p)).2 }
  slots := a
  mem := m
  wiped v := ⟨m v.1, v.2.1, w v⟩

end Sys2Proof.Laws
end

