-- ==== Sys2Proof/Laws/Ops.lean ====
section
/-! SUPPORT. The operations that commands share (Machine/Ops.lean): for each, that the part evolves by it; for the
taking of a face, the freeing of an item and the choice of a release, all that each can do. -/

namespace Sys2Proof.Laws

open Sys2Proof.Machine Sys2Proof.Safety

/-! ## Notices -/

theorem pushNotice_evolves (n : Notice) (s : State) : Evolves s (pushNotice n s) := by
  unfold pushNotice
  split
  · exact .refl s
  · split
    · refine .ofDru s _ (fun _ w => ?_) (fun b => ?_)
      · exact ⟨w.running, w.owed⟩
      · rename_i h
        exact ⟨by simp; omega, b.2.1, b.2.2.1⟩
    · refine .ofDru s _ (fun _ w => ?_) (fun b => ⟨b.1, b.2.1, b.2.2.1⟩)
      exact ⟨w.running, w.owed⟩

theorem pushNotices_evolves (ns : List Notice) (s : State) : Evolves s (pushNotices ns s) := by
  induction ns generalizing s with
  | nil => exact .refl s
  | cons n ns ih => exact (pushNotice_evolves n s).trans (ih _)

/-! ## Item records and contexts -/

theorem modItem_evolves (ix : ItemIx) (g : ItemRecord → ItemRecord) (s : State) : Evolves s (modItem ix g s) := by
  refine .ofStk s _ (fun _ w => ?_)
  refine { w with items := fun j => ?_ }
  simp only [Fin.getElem_fin, Vector.getElem_set]
  split
  · simpa using w.items ix
  · exact w.items j

theorem modFace_evolves (ix : ItemIx) (n : Nat) (g : FaceRecord → FaceRecord) (s : State) : Evolves s (modFace ix n g s) :=
  modItem_evolves _ _ _

/-- A context is changed only while the part works on items. -/
theorem setContext_evolves (st : Stream) (c : StreamCtx) (s : State) (h : ¬ workless s) : Evolves s (setContext st c s) :=
  .ofStk s _ (fun p => absurd p h)

theorem applyPending_evolves (st : Stream) (s : State) : Evolves s (applyPending st s) := by
  unfold applyPending
  split
  · exact .refl s
  · rename_i r t e
    refine Evolves.trans (.ofStk s _ (fun _ w => ?_)) (pushNotice_evolves _ _)
    have := w.pendingRole st
    simp_all

/-! ## The egress link -/

theorem LinkSound.send {s : State} (x : Elu) (src : Source) (b : List Byte) (hl : x.link = .sending src b)
    (hp : s.flm.part ≠ .held) : LinkSound { s with elu := x } := by
  simp [LinkSound, hl, hp]

theorem passBytes_sound {s : State} {x : Elu} (f : FifoSound s) (hf : x.fifo = s.elu.fifo) (hne : s.elu.fifo ≠ []) :
    FifoSound { s with elu := x } := by
  obtain ⟨a, b, c, -⟩ := f
  exact ⟨by simpa [hf] using a, by simpa [hf] using b, by simpa [hf] using c, fun _ _ => by simpa [hf] using hne⟩

theorem grantPass_evolves (s : State) (h : s.flm.part ≠ .held) : Evolves s (grantPass s) := by
  unfold grantPass
  split
  · exact .refl s
  · rename_i p ps e
    refine .ofElu s _ (fun _ => LinkSound.send _ _ _ rfl h) (fun f => passBytes_sound f rfl (by simp [e]))

theorem FifoSound.link {s : State} {x : Elu} (f : FifoSound s) (hf : x.fifo = s.elu.fifo)
    (hl : ∀ b, x.link ≠ .sending .passThrough b) : FifoSound { s with elu := x } := by
  obtain ⟨a, b, c, -⟩ := f
  exact ⟨by simpa [hf] using a, by simpa [hf] using b, by simpa [hf] using c, fun y h => absurd h (hl y)⟩

theorem popNotice_evolves {s : State} {n : Notice} {ns : List Notice} (e : s.dru.notices = n :: ns) :
    Evolves s { s with dru := { s.dru with notices := ns } } := by
  refine .ofDru s _ (fun _ w => ?_) (fun b => ⟨?_, b.2.1, b.2.2.1⟩)
  · exact ⟨w.running, w.owed⟩
  · have := b.1
    simp only [e, List.length_cons] at this
    simp only; omega

theorem bypassBoundary_evolves (s : State) (h : s.flm.part ≠ .held) : Evolves s (bypassBoundary s) := by
  unfold bypassBoundary
  split
  · exact .refl s
  · split
    · rename_i n ns e
      exact (popNotice_evolves e).trans
        (.ofElu _ _ (fun _ => LinkSound.send _ _ _ rfl h) (fun f => FifoSound.link f rfl (by simp)))
    · exact grantPass_evolves s h

theorem wakeLink_evolves (s : State) : Evolves s (wakeLink s) := by
  unfold wakeLink
  split
  · rename_i h
    exact bypassBoundary_evolves s (by simp [h.1])
  · exact .refl s

/-! ## Bytes and the pass-through FIFO -/

theorem toBE_length (n v : Nat) : (toBE n v).length = n := by
  induction n with
  | zero => rfl
  | succ n ih => simp [toBE, ih]

theorem recordBytes_length (r : Record) :
    (recordBytes r).length = if r.body.payload = [] then 8 else r.body.payload.length + 12 := by
  unfold recordBytes headerBytes
  split <;> simp [toBE_length, *]
  omega

/-- With fewer than 64 records held, the entry chosen is not in use. -/
theorem freePassEntry_free (e : Elu) (h : e.fifo.length < Config.passCapacity) :
    ∀ p ∈ e.fifo, p.entry ≠ freePassEntry e := by
  unfold freePassEntry
  cases hf : (List.finRange 64).find? (fun x => e.fifo.all (fun p => p.entry != x)) with
  | some x =>
    have := List.find?_some hf
    simp only [List.all_eq_true, bne_iff_ne] at this
    simpa using this
  | none =>
    exfalso
    rw [List.find?_eq_none] at hf
    have all : ∀ x : PassIx, x ∈ e.fifo.map PassEntry.entry := by
      intro x
      have := hf x (List.mem_finRange x)
      simp only [List.all_eq_true, bne_iff_ne, not_forall] at this
      obtain ⟨p, hp, e⟩ := this
      exact List.mem_map.mpr ⟨p, hp, by simpa using e⟩
    have sub : (List.finRange 64).length ≤ (e.fifo.map PassEntry.entry).length :=
      (List.nodup_finRange 64).subperm (fun x _ => all x) |>.length_le
    simp [Config.passCapacity] at sub h
    omega

/-- A write to the pass-through region touches no slot. -/
theorem passWrite_slot {s : State} (m : MemoryCanonical s) (e : PassIx) (bytes : List Byte) (k : Slot) (w : SlotWiped s k) :
    ∀ a, k.val * Config.slotBytes ≤ a → a < (k.val + 1) * Config.slotBytes →
      (s.fmc.mem.write (passEntryBase e) bytes).read a = 0 := by
  intro a ha hb
  rw [read_write m, if_neg]
  · exact w a ha hb
  · have := k.isLt
    simp only [passEntryBase, Config.passBase, Config.slotBytes, Config.passEntryBytes] at *
    omega

/-- A write of memory that leaves every wiped FREE slot wiped. -/
theorem memWrite_evolves (s : State) (a : Nat) (bytes : List Byte)
    (h : FreeSlotsWiped s → ∀ k : Slot, s.fmc.slots[k] = .free → ∀ b, k.val * Config.slotBytes ≤ b →
      b < (k.val + 1) * Config.slotBytes → (s.fmc.mem.write a bytes).read b = 0) :
    Evolves s { s with fmc := { s.fmc with mem := s.fmc.mem.write a bytes } } := by
  refine .ofFmc s _ le_rfl (fun _ w => ?_) id (fun m => wf_write m _ _) (fun w k hk => h w k hk)
  exact ⟨w.ready, w.notHeld⟩

theorem offerPass_evolves (r : Record) (s : State) (h : r.body.payload.length ≤ Config.maxPayload) :
    Evolves s (offerPass r s) := by
  unfold offerPass
  split
  · rename_i hf
    refine Evolves.trans ?_ (wakeLink_evolves _)
    have one := memWrite_evolves s (passEntryBase (freePassEntry s.elu)) (recordBytes r)
      (fun w k hk b h1 h2 => passWrite_slot w.1 _ _ k (w.2.2 k hk) b h1 h2)
    refine one.trans (.ofElu _ _ (fun l => ?_) (fun f => ?_))
    · simpa [LinkSound] using l
    · obtain ⟨a, b, c, d⟩ := f
      refine ⟨?_, ?_, ?_, ?_⟩
      · simp only [List.length_append, List.length_singleton]
        exact hf
      · simp only [List.map_append, List.map_cons, List.map_nil]
        rw [List.nodup_append]
        refine ⟨b, by simp, ?_⟩
        intro x hx y hy
        rw [List.mem_map] at hx
        obtain ⟨p, hp, rfl⟩ := hx
        simp only [List.mem_singleton] at hy
        subst hy
        exact freePassEntry_free s.elu hf p hp
      · intro p hp
        rcases List.mem_append.mp hp with hp | hp
        · exact c p hp
        · simp only [List.mem_singleton] at hp
          subst hp
          simp only [recordBytes_length]
          simp only [Config.maxPayload, Config.passEntryBytes] at *
          split <;> omega
      · intro y hy
        simp
  · refine .ofElu s _ (fun l => l) (fun f => f)

/-! ## Slots -/

@[simp] theorem discardSlots_slot (f : Fmc) (k : Slot) :
    (discardSlots f).slots[k] = if isHeldSlot f.slots[k] then .scrubbing else f.slots[k] := by
  simp [discardSlots]

theorem discardSlots_notHeld (f : Fmc) (k : Slot) : isHeldSlot (discardSlots f).slots[k] = false := by
  rw [discardSlots_slot]
  split
  · rfl
  · rename_i h
    simpa using h

theorem discardSlots_accounted {s : State} {x : Fmc} (h : SlotsAccounted s) (hs : x.slots = (discardSlots s.fmc).slots)
    (ho : x.scrubOrder = (discardSlots s.fmc).scrubOrder) : SlotsAccounted { s with fmc := x } := by
  refine ⟨fun k hk => ?_, fun k hk => ?_⟩
  · simp only [hs, discardSlots_slot, ho] at *
    simp only [discardSlots, heldSlots, List.mem_append, List.mem_filter, List.mem_finRange, true_and]
    split at hk
    · exact .inr ‹_›
    · exact .inl (h.1 k hk)
  · simp only [hs, discardSlots_slot] at hk
    split at hk
    · cases hk
    · rename_i hh
      rw [hk] at hh
      simp [isHeldSlot] at hh

/-- The state at a latch, before the egress link looks for what to start (R205, R206). -/
theorem latch_cases (cause : FaultCause) (s : State) :
    latch cause s = s ∨
      (s.flm.latch = none ∧ (s.flm.part = .starting ∨ s.flm.part = .operating) ∧
        ∃ t, latch cause s = wakeLink t ∧ t.flm = { part := .bypass, latch := some cause } ∧ NoWork t ∧
          t.pending = s.pending ∧ t.sus = s.sus ∧ t.elu = s.elu ∧ t.freeUsed = s.freeUsed ∧
          t.fmc = { discardSlots s.fmc with pacing := false, verify := none } ∧
          t.dru.notices = [eventNotice .fault .done 0 [causeByte cause]] ∧ t.dru.lost = s.dru.lost ∧
          t.dru.profiles = s.dru.profiles ∧ t.dru.codeSlots = s.dru.codeSlots ∧ t.dru.toneSlots = s.dru.toneSlots ∧
          t.dru.rules = s.dru.rules ∧ t.dru.duty = s.dru.duty ∧ t.rel.position = s.rel.position ∧
          t.stk.orphans = s.stk.orphans ∧ t.stk.accepted = s.stk.accepted ∧ t.stk.lost = s.stk.lost ∧
          (∀ st : Stream, (t.stk.map[st]).role = (s.stk.map[st]).role) ∧
          t.ilu = { s.ilu with
            activityTimer := false, monitor := { s.ilu.monitor with position := 0, mismatches := 0 } }) := by
  unfold latch
  split
  · rename_i h
    refine .inr ⟨h.1, h.2, _, rfl, rfl, ?_, rfl, rfl, rfl, rfl, rfl, rfl, rfl, rfl, rfl, rfl, rfl, rfl, rfl, rfl, rfl, rfl,
      ?_, rfl⟩
    · exact
        { items := fun k => by simp, contexts := fun k => by simp, pendingRole := fun k => by simp,
          scaling := fun k => by simp, converting := rfl, release := rfl, queues := fun k => by simp, ready := rfl,
          notHeld := discardSlots_notHeld s.fmc, running := rfl, owed := rfl }
    · intro st; simp
  · exact .inl rfl

theorem latch_evolves (cause : FaultCause) (s : State) : Evolves s (latch cause s) := by
  rcases latch_cases cause s with h | ⟨hl, hp, t, ht, hflm, hn, h1, h2, h3, -, h5, h6, -, -, -, -, -, -, -, -, -, -, -, -⟩
  · rw [h]; exact .refl s
  · rw [ht]
    refine Evolves.trans ?_ (wakeLink_evolves t)
    have memEq : t.fmc.mem = s.fmc.mem := by simp [h5, discardSlots]
    have mem : MemoryCanonical s → MemoryCanonical t := by simp only [MemoryCanonical, memEq]; exact id
    constructor
    · exact h1
    · rw [h2]; exact ⟨rfl, rfl⟩
    · simp [h5, discardSlots]
    · right
      rw [hflm]
      exact ⟨hl, hp, rfl, by simp⟩
    · intro l
      simp only [LinkSound, hflm, h3] at *
      refine ⟨⟨fun e => ?_, fun e => by cases e⟩, fun e => by rcases e with e | e <;> cases e⟩
      have := l.1.mp e
      rcases hp with p | p <;> rw [p] at this <;> cases this
    · intro f
      simpa [FifoSound, h3] using f
    · intro q
      refine ⟨?_, ?_, fun _ => hn.owed, fun st => ?_⟩
      · simp [h6, Config.noticeCapacity]
      · rw [hn.owed]; simp [Config.owedCapacity]
      · rw [hn.queues st]; simp [fenceCount, Config.fenceCapacity]
    · exact fun _ _ => hn
    · intro a
      have := discardSlots_accounted (x := t.fmc) a (by rw [h5]) (by rw [h5])
      simpa [SlotsAccounted] using this
    · exact mem
    · rintro ⟨m, -, w⟩
      refine ⟨mem m, fun k c hc => ?_, fun k hk a h1 h2 => ?_⟩
      · rw [hn.scaling k] at hc; cases hc
      · rw [memEq]
        refine w k ?_ a h1 h2
        rw [h5] at hk
        simp only [discardSlots_slot] at hk
        split at hk
        · cases hk
        · exact hk

/-- A slot's state changes while every slot it may leave unaccounted is accounted. -/
theorem slotsSet_evolves (s : State) (x : Fmc) (k : Slot) (v : SlotState) (hs : x.slots = s.fmc.slots.set k v)
    (hv : v ≠ .free) (ht : x.tally = s.fmc.tally) (hm : x.mem = s.fmc.mem)
    (hw : workless s → NoWork s → x.ready = [] ∧ isHeldSlot v = false)
    (hscrub : ∀ j, j ∈ s.fmc.scrubOrder → j ∈ x.scrubOrder) (hscrubk : v = .scrubbing → k ∈ x.scrubOrder)
    (hready : ∀ j, j ≠ k → j ∈ s.fmc.ready → j ∈ x.ready) (hreadyk : v = .ready → k ∈ x.ready) :
    Evolves s { s with fmc := x } := by
  refine .ofFmc s x (by rw [ht]) (fun p w => ?_) (fun a => ⟨fun j hj => ?_, fun j hj => ?_⟩) (fun m => by rw [hm]; exact m)
    (fun w j hj => ?_)
  · refine ⟨(hw p w).1, fun j => ?_⟩
    rw [hs]
    simp only [Fin.getElem_fin, Vector.getElem_set]
    split
    · exact (hw p w).2
    · exact w.notHeld j
  · simp only [hs, Fin.getElem_fin, Vector.getElem_set] at hj
    split at hj
    · rename_i e
      have : k = j := Fin.ext e
      subst this
      exact hscrubk hj
    · exact hscrub j (a.1 j hj)
  · simp only [hs, Fin.getElem_fin, Vector.getElem_set] at hj
    split at hj
    · rename_i e
      have : k = j := Fin.ext e
      subst this
      exact hreadyk hj
    · rename_i e
      exact hready j (fun h => e (by rw [h])) (a.2 j hj)
  · simp only [hs, Fin.getElem_fin, Vector.getElem_set] at hj
    split at hj
    · exact absurd hj hv
    · intro b h1 h2
      rw [hm]
      exact w.2.2 j hj b h1 h2

theorem toScrub_evolves (k : Slot) (s : State) : Evolves s (toScrub k s) := by
  refine slotsSet_evolves s _ k .scrubbing rfl (by simp) rfl rfl (fun _ w => ⟨?_, rfl⟩) ?_ ?_ ?_ ?_
  · exact w.ready
  · intro j hj; simp [hj]
  · simp
  · intro j _ hj; exact hj
  · simp

/-- A slot is put in FILLING, CONVERTING or CODED only while the part works on items. -/
theorem setSlot_evolves (k : Slot) (v : SlotState) (s : State) (h : ¬ workless s)
    (hv : v = .filling ∨ v = .converting ∨ v = .coded) : Evolves s (setSlot k v s) := by
  refine slotsSet_evolves s _ k v rfl ?_ rfl rfl (fun p => absurd p h) (fun _ h => h) ?_ (fun _ _ h => h) ?_ <;>
    rcases hv with rfl | rfl | rfl <;> simp

theorem evalPacing_evolves (s : State) : Evolves s (evalPacing s) := by
  unfold evalPacing
  split
  · refine .ofFmc s _ le_rfl (fun _ w => ?_) (fun a => a) (fun m => m) (fun w k hk => w.2.2 k hk)
    exact ⟨w.ready, w.notHeld⟩
  · exact .refl s

/-! ## Reading face memory -/

theorem satInc_le (c : Count) : c.toNat ≤ (satInc c).toNat := by
  unfold satInc
  split
  · exact le_rfl
  · rename_i h
    have : c.toNat ≠ (BitVec.allOnes 32).toNat := fun e => h (BitVec.eq_of_toNat_eq e)
    have lt := c.isLt
    rw [BitVec.toNat_add, show (1 : BitVec 32).toNat = 1 from rfl]
    simp only [BitVec.toNat_allOnes] at *
    omega

theorem noteDamage_evolves (s : State) (w : Nat) (r : ReadResult) :
    Evolves s { s with fmc := { s.fmc with mem := s.fmc.mem.noteDamage w r } } := by
  refine .ofFmc s _ le_rfl (fun _ n => ?_) (fun a => a) (fun m => wf_noteDamage m _ _) (fun v k hk b h1 h2 => ?_)
  · exact ⟨n.ready, n.notHeld⟩
  · simp only [read_noteDamage]
    exact v.2.2 k hk b h1 h2

theorem counts_evolve (s : State) (a b t : Count) (h : s.fmc.tally.toNat ≤ t.toNat) :
    Evolves s { s with fmc := { s.fmc with corrected := a, uncorrectable := b, tally := t } } := by
  refine .ofFmc s _ h (fun _ n => ?_) (fun a => a) id (fun v k hk b h1 h2 => v.2.2 k hk b h1 h2)
  exact ⟨n.ready, n.notHeld⟩

/-- What counting a read's result can do (R46, R47). -/
theorem countResult_cases (r : ReadResult) (s : State) :
    (r = .clean ∧ countResult r s = s) ∨
      (r = .corrected ∧ countResult r s = { s with fmc := { s.fmc with corrected := satInc s.fmc.corrected } }) ∨
      (r = .uncorrectable ∧ ∃ t : State,
        t = { s with fmc := { s.fmc with
          uncorrectable := satInc s.fmc.uncorrectable, tally := satInc s.fmc.tally } } ∧
        countResult r s = if (satInc s.fmc.tally).toNat = Config.memoryLimit then latch .memoryLimit t else t) := by
  cases r
  · exact .inl ⟨rfl, rfl⟩
  · exact .inr (.inl ⟨rfl, rfl⟩)
  · exact .inr (.inr ⟨rfl, _, rfl, rfl⟩)

theorem countResult_evolves (r : ReadResult) (s : State) : Evolves s (countResult r s) := by
  rcases countResult_cases r s with ⟨-, e⟩ | ⟨-, e⟩ | ⟨-, t, rfl, e⟩ <;> rw [e]
  · exact .refl s
  · exact counts_evolve s _ s.fmc.uncorrectable s.fmc.tally le_rfl
  · have := counts_evolve s s.fmc.corrected (satInc s.fmc.uncorrectable) (satInc s.fmc.tally) (satInc_le _)
    split
    · exact this.trans (latch_evolves _ _)
    · exact this

theorem readWord_evolves (w : Nat) (now : ReadResult) (s : State) : Evolves s (readWord w now s).1 :=
  (noteDamage_evolves s w _).trans (countResult_evolves _ _)

theorem lateReads_evolves (w : Nat) (reads : List ReadResult) (s : State) : Evolves s (lateReads w reads s) := by
  induction reads generalizing w s with
  | nil => exact .refl s
  | cons r rest ih => exact (readWord_evolves w r s).trans (ih _ _)

theorem readWords_evolves (n w : Nat) (reads : List ReadResult) (s : State) : Evolves s (readWords n w reads s).1 := by
  induction n generalizing w reads s with
  | zero => exact .refl s
  | succ n ih =>
    simp only [readWords]
    split
    · exact (readWord_evolves _ _ _).trans (lateReads_evolves _ _ _)
    · exact (readWord_evolves _ _ _).trans (ih _ _ _)

/-- The results of reads whose work has been discarded (R97). -/
theorem countResults_evolve (reads : List ReadResult) (s : State) :
    Evolves s (reads.foldl (fun s r => countResult r s) s) := by
  induction reads generalizing s with
  | nil => exact .refl s
  | cons r rest ih => exact (countResult_evolves r s).trans (ih _)

/-! ## Writes to slots -/

/-- A write inside a slot that is not FREE leaves the FREE slots wiped. -/
theorem slotWrite_evolves (s : State) (k : Slot) (o : Nat) (bytes : List Byte) (hk : s.fmc.slots[k] ≠ .free)
    (hb : FreeSlotsWiped s → o + bytes.length ≤ Config.slotBytes) :
    Evolves s { s with fmc := { s.fmc with mem := s.fmc.mem.write (k.val * Config.slotBytes + o) bytes } } := by
  refine memWrite_evolves s _ _ (fun w j hj b h1 h2 => ?_)
  have hne : j ≠ k := fun e => hk (e ▸ hj)
  have hv : j.val ≠ k.val := fun e => hne (Fin.ext e)
  have hl := hb w
  rw [read_write w.1, if_neg]
  · exact w.2.2 j hj b h1 h2
  · rintro ⟨h3, h4⟩
    simp only [Config.slotBytes] at *
    omega

theorem writeGrey_evolves (k : Slot) (n : Nat) (row : List Byte) (s : State)
    (h : FreeSlotsWiped s → n < Config.maxKeptHeight ∧ row.length ≤ Config.maxKeptWidth) : Evolves s (writeGrey k n row s) := by
  unfold writeGrey
  split
  · rename_i hk
    refine slotWrite_evolves s k (n * Config.rowStride) row (by rw [hk]; simp) (fun w => ?_)
    have := h w
    simp only [Config.rowStride, Config.slotBytes, Config.maxKeptHeight, Config.maxKeptWidth] at *
    omega
  · exact .refl s

theorem writeCoded_evolves (k : Slot) (w : Nat) (bytes : List Byte) (s : State) : Evolves s (writeCoded k w bytes s) := by
  unfold writeCoded
  split
  · rename_i hk
    have e : codedBase k + 8 * w = k.val * Config.slotBytes + (Config.greyBytes + 8 * w) := by
      simp [codedBase, Nat.add_assoc]
    rw [e]
    refine slotWrite_evolves s k _ bytes (by rw [hk.1]; simp) (fun _ => ?_)
    have := hk.2
    simp only [Config.codedArea, Config.slotBytes, Config.greyBytes] at *
    omega
  · exact .refl s

/-! ## Freeing item records -/

theorem dropGrants_evolves (s : State) (q : QuiesceState) (hq : workless s → NoWork s → q = .running) :
    Evolves s { s with dru := { s.dru with quiesce := q, owed := [] } } :=
  .ofDru s _ (fun p w => ⟨hq p w, rfl⟩) (fun b => ⟨b.1, by simp [Config.owedCapacity], fun _ => rfl⟩)

theorem checkQuiesced_evolves (s : State) : Evolves s (checkQuiesced s) := by
  unfold checkQuiesced
  split
  · rename_i h
    refine (dropGrants_evolves s .quiesced (fun _ w => ?_)).trans (pushNotices_evolves _ _)
    rw [w.running] at h
    simp at h
  · exact .refl s

/-- Removing item entries from a queue leaves its fence markers. -/
theorem fenceCount_filter_item (q : List QueueEntry) (x : QueueEntry) (h : ∀ t, x ≠ .fence t) :
    fenceCount (q.filter (fun e => e != x)) = fenceCount q := by
  unfold fenceCount
  rw [List.filter_filter]
  congr 1
  refine List.filter_congr (fun e _ => ?_)
  cases e with
  | item ix r => simp
  | fence t => simp; exact fun e => h t e.symm

theorem relQueue_evolves (s : State) (st : Stream) (q : List QueueEntry) (pos : Stream) (r : Option Release)
    (hw : workless s → NoWork s → q = [] ∧ r = none)
    (hf : QueuesBounded s → fenceCount q ≤ Config.fenceCapacity) :
    Evolves s { s with rel := { queues := s.rel.queues.set st q, position := pos, release := r } } := by
  refine .ofRel s _ (fun p w => ?_) (fun b j => ?_)
  · refine { w with release := (hw p w).2, queues := fun j => ?_ }
    simp only [Fin.getElem_fin, Vector.getElem_set]
    split
    · exact (hw p w).1
    · exact w.queues j
  · simp only [Fin.getElem_fin, Vector.getElem_set]
    split
    · exact hf b
    · exact b.2.2.2 j

theorem releaseOnly_evolves (s : State) (pos : Stream) (r : Option Release) (hw : workless s → NoWork s → r = none) :
    Evolves s { s with rel := { s.rel with position := pos, release := r } } := by
  refine .ofRel s _ (fun p w => ?_) (fun b j => b.2.2.2 j)
  exact { w with release := hw p w }

theorem tryFree_evolves (ix : ItemIx) (s : State) : Evolves s (tryFree ix s) := by
  unfold tryFree
  split
  · exact .refl s
  · rename_i r hr
    split
    · refine Evolves.trans ?_ (checkQuiesced_evolves _)
      refine Evolves.trans (.ofStk s { s.stk with items := s.stk.items.set ix none } (fun _ w => ?_)) ?_
      · refine { w with items := fun j => ?_ }
        simp only [Fin.getElem_fin, Vector.getElem_set]
        split
        · rfl
        · exact w.items j
      · refine relQueue_evolves _ r.stream _ _ _ (fun _ w => ⟨?_, by simpa using NoWork.release w⟩) (fun b => ?_)
        · rw [w.queues r.stream]; rfl
        · rw [fenceCount_filter_item _ _ (by simp)]
          exact b.2.2.2 r.stream
    · exact .refl s

/-! ## The Conversion Engine takes and leaves faces -/

/-- The head of the ready queue is taken. -/
theorem takeSlot_evolves (s : State) (k : Slot) (rest : List Slot) (hr : s.fmc.ready = k :: rest) (w : Work) :
    Evolves s { s with fmc := { s.fmc with slots := s.fmc.slots.set k .converting, ready := rest }, cnv := some w } := by
  have none : ¬ NoWork s := fun n => by have := n.ready; rw [hr] at this; cases this
  refine Evolves.trans (t := { s with fmc := { s.fmc with slots := s.fmc.slots.set k .converting, ready := rest } })
    (slotsSet_evolves s _ k .converting rfl (by simp) rfl rfl (fun _ n => absurd n none) (fun _ h => h) (by simp)
      (fun j hj hm => ?_) (by simp)) (.ofCnv _ _ (fun _ n => ?_))
  · rw [hr] at hm
    exact (List.mem_cons.mp hm).resolve_left hj
  · have := n.notHeld k
    simp [isHeldSlot] at this

theorem cnvTake_evolves (parity : Option ParityRead) (s : State) : Evolves s (cnvTake parity s) := by
  unfold cnvTake
  split
  · rename_i k rest hc hr
    split
    · exact latch_evolves _ _
    · split
      · exact .refl s
      · split
        · rename_i ix n _ _ _ _ _ _ _
          refine (modFace_evolves ix n (fun f => { f with state := .converting }) s).trans ?_
          exact takeSlot_evolves _ k rest (by simpa using hr) _
        · exact .refl s
  · exact .refl s

theorem cnvStop_evolves (parity : Option ParityRead) (w : Work) (s : State) : Evolves s (cnvStop parity w s) := by
  unfold cnvStop
  refine Evolves.trans ?_ (cnvTake_evolves _ _)
  refine Evolves.trans ?_ (tryFree_evolves _ _)
  refine Evolves.trans ((toScrub_evolves _ _).trans (modFace_evolves _ _ _ _)) (.ofCnv _ _ (fun _ _ => rfl))

/-! ## Release -/

theorem overtakes_evolve (l : List ItemIx) (s : State) :
    Evolves s (l.foldl (fun s y => modItem y ItemRecord.overtake s) s) ∧
      (l.foldl (fun s y => modItem y ItemRecord.overtake s) s).flm = s.flm := by
  induction l generalizing s with
  | nil => exact ⟨.refl s, rfl⟩
  | cons y ys ih => exact ⟨(modItem_evolves _ _ _).trans (ih _).1, (ih _).2.trans (by simp)⟩

theorem beginRelease_evolves (st : Stream) (ix : ItemIx) (passed : List ItemIx) (s : State) (h : s.flm.part = .operating) :
    Evolves s (beginRelease st ix passed s) := by
  unfold beginRelease
  simp only []
  refine Evolves.trans ((overtakes_evolve passed s).1.trans (modItem_evolves ix (fun r =>
    { (r.setFlags (itemFlagIf (!passed.isEmpty) itemOutOfOrder)) with state := .releasing }) _)) ?_
  split
  · exact .refl _
  · split
    · exact .refl _
    · refine releaseOnly_evolves _ _ _ (fun p _ => ?_)
      exfalso
      simp only [workless, modItem_flm, (overtakes_evolve passed s).2, h] at p
      rcases p with p | p <;> cases p

theorem relTry_evolves (parity : Option ParityRead) (s : State) : Evolves s (relTry parity s) := by
  unfold relTry
  split
  · rename_i hop
    split
    · exact latch_evolves _ _
    · split
      · exact .refl s
      · exact beginRelease_evolves _ _ _ s hop.1
  · exact .refl s

theorem fenceCount_passable (q : List QueueEntry) : fenceCount (passableFences q).1 ≤ fenceCount q := by
  fun_induction passableFences q with
  | case1 ix rest p ih => simpa [fenceCount, p] using ih
  | case2 t rest p ih => simp [fenceCount, p] at *; omega
  | case3 q => exact le_rfl

theorem passFences_evolves (st : Stream) (s : State) : Evolves s (passFences st s) := by
  unfold passFences
  refine Evolves.trans ?_ (pushNotices_evolves _ _)
  refine relQueue_evolves s st _ _ _ (fun _ w => ⟨?_, w.release⟩) (fun b => ?_)
  · rw [w.queues st]; rfl
  · exact (fenceCount_passable _).trans (b.2.2.2 st)

theorem toScrubs_evolves (ks : List Slot) (s : State) : Evolves s (ks.foldl (fun s k => toScrub k s) s) := by
  induction ks generalizing s with
  | nil => exact .refl s
  | cons k ks ih => exact (toScrub_evolves k s).trans (ih _)

theorem scrubCodedSlots_evolves (ix : ItemIx) (s : State) : Evolves s (scrubCodedSlots ix s) := by
  unfold scrubCodedSlots
  split
  · exact .refl s
  · exact (toScrubs_evolves _ _).trans (modItem_evolves _ _ _)

theorem fenceCount_map_item (q : List QueueEntry) (ix : ItemIx) :
    fenceCount (q.map (fun e => if e = .item ix false then .item ix true else e)) = fenceCount q := by
  induction q with
  | nil => rfl
  | cons e q ih =>
    simp only [fenceCount, List.map_cons] at *
    cases e with
    | item j r => by_cases h : QueueEntry.item j r = .item ix false <;> simp [h, ih]
    | fence t => simp [ih]

theorem completeRelease_evolves (parity : Option ParityRead) (ix : ItemIx) (s : State) :
    Evolves s (completeRelease parity ix s) := by
  unfold completeRelease
  split
  · exact releaseOnly_evolves s _ none (fun _ _ => rfl)
  · rename_i r _
    split
    · exact latch_evolves _ _
    refine Evolves.trans ?_ (relTry_evolves _ _)
    refine Evolves.trans ?_ (passFences_evolves _ _)
    refine Evolves.trans ?_ (tryFree_evolves _ _)
    refine Evolves.trans ?_ (scrubCodedSlots_evolves _ _)
    refine relQueue_evolves s r.stream _ _ none (fun _ w => ⟨?_, rfl⟩) (fun b => ?_)
    · rw [w.queues r.stream]; rfl
    · rw [fenceCount_map_item]; exact b.2.2.2 r.stream

theorem offerNext_evolves (parity : Option ParityRead) (x : Release) (s : State) (h : s.rel.release ≠ none) :
    Evolves s (offerNext parity x s) := by
  unfold offerNext
  split
  · exact .refl s
  · split
    · exact latch_evolves _ _
    · refine releaseOnly_evolves s _ _ (fun _ w => absurd w.release h)

theorem decideItem_evolves (parity : Option ParityRead) (ix : ItemIx) (s : State) : Evolves s (decideItem parity ix s) := by
  unfold decideItem
  split
  · exact .refl s
  · split
    · exact latch_evolves _ _
    split
    · exact modItem_evolves _ _ _
    · exact .refl s

/-! ## The egress arbiter -/

theorem startFill_evolves (s : State) (h : s.flm.part ≠ .held) : Evolves s (startFill s) :=
  .ofElu s _ (fun _ => LinkSound.send _ _ _ rfl h) (fun f => FifoSound.link f rfl (by simp))

theorem grantNotice_evolves (s : State) (h : s.flm.part ≠ .held) : Evolves s (grantNotice s) := by
  unfold grantNotice
  split
  · exact .refl s
  · rename_i n ns e
    exact (popNotice_evolves e).trans
      (.ofElu _ _ (fun _ => LinkSound.send _ _ _ rfl h) (fun f => FifoSound.link f rfl (by simp)))

theorem grantRelease_evolves (parity : Option ParityRead) (s : State) (h : s.flm.part ≠ .held) :
    Evolves s (grantRelease parity s) := by
  unfold grantRelease
  split
  · exact .refl s
  · rename_i x hx
    split
    · exact .refl s
    · rename_i r hr
      have one : Evolves s { s with elu := { s.elu with position := .release, link := .sending .release (recordBytes r) } } :=
        .ofElu s _ (fun _ => LinkSound.send _ _ _ rfl h) (fun f => FifoSound.link f rfl (by simp))
      simp only []
      split
      · exact one.trans (completeRelease_evolves _ _ _)
      · exact one.trans (offerNext_evolves _ _ _ (by simp [hx]))

/-! ## What the taking of a face, the freeing of an item and the choice of a release can do -/

/-- The first field out of range is the same however it is looked for (R169). -/
theorem firstOutOfRange_eq_firstBad (fields : List (Nat × Bool)) : firstOutOfRange fields = firstBad fields := by
  induction fields with
  | nil => rfl
  | cons x rest ih =>
    obtain ⟨o, ok⟩ := x
    cases ok <;> simp [firstOutOfRange, firstBad, ih]

/-- All that `cnvTake` can do without a parity error: nothing, or the head of the ready queue goes to the idle engine (R51, R82). -/
theorem cnvTake_none_cases (s : State) :
    cnvTake none s = s ∨
      ∃ (k : Slot) (rest : List Slot) (ix : ItemIx) (n : Nat) (r : ItemRecord) (f : FaceRecord),
        s.cnv = none ∧ s.fmc.ready = k :: rest ∧ faceHolding s k = some (ix, n) ∧ s.stk.items[ix] = some r ∧
          r.faces[n]? = some f ∧
          cnvTake none s =
            { modFace ix n (fun f => { f with state := .converting }) s with
              fmc := { s.fmc with slots := s.fmc.slots.set k .converting, ready := rest }
              cnv := some (takenWork ix n k f r.profile) } := by
  unfold cnvTake
  split
  · rename_i k rest hc hr
    rw [if_neg (by simp)]
    split
    · exact .inl rfl
    · rename_i ix n hh
      split
      · rename_i r f hi hf
        refine .inr ⟨k, rest, ix, n, r, f, hc, hr, hh, hi, ?_, rfl⟩
        simpa [faceAt, hi] using hf
      · exact .inl rfl
  · exact .inl rfl

/-- Without a parity error the choice of a release touches the item records, the arbiter position and the release alone (R153,
R154). -/
theorem relTry_none_frame (s : State) :
    ∃ items position release, relTry none s =
      { s with stk := { s.stk with items := items }, rel := { s.rel with position := position, release := release } } := by
  have overtakes : ∀ (l : List ItemIx) (u : State), ∃ items,
      l.foldl (fun s y => modItem y ItemRecord.overtake s) u = { u with stk := { u.stk with items := items } } := by
    intro l
    induction l with
    | nil => exact fun u => ⟨u.stk.items, rfl⟩
    | cons y l ih =>
      intro u
      obtain ⟨items, h⟩ := ih (modItem y ItemRecord.overtake u)
      exact ⟨items, h⟩
  unfold relTry
  split
  · rw [if_neg (by simp)]
    split
    · exact ⟨_, _, _, rfl⟩
    · rename_i st ix passed _
      obtain ⟨items, h⟩ := overtakes passed s
      unfold beginRelease
      simp only [h]
      split
      · exact ⟨_, _, _, rfl⟩
      · split <;> exact ⟨_, _, _, rfl⟩
  · exact ⟨_, _, _, rfl⟩

/-- All that `tryFree` can do: nothing, or the item, released and without a slot, leaves the table and its queue, after which the
part may be QUIESCED (R26, R148, R161, R185). -/
theorem tryFree_cases (ix : ItemIx) (s : State) :
    tryFree ix s = s ∨
      ∃ r : ItemRecord, s.stk.items[ix] = some r ∧ QueueEntry.item ix true ∈ s.rel.queues[r.stream] ∧
        (∀ f ∈ r.faces, f.slot = none) ∧
        tryFree ix s = checkQuiesced
          { s with
            stk := { s.stk with items := s.stk.items.set ix none }
            rel := { s.rel with
              queues := s.rel.queues.set r.stream (s.rel.queues[r.stream].filter (fun e => e != .item ix true)) } } := by
  unfold tryFree
  split
  · exact .inl rfl
  · rename_i r hi
    split
    · rename_i h
      exact .inr ⟨r, hi, by simpa [isReleased] using h.1, by simpa using h.2, rfl⟩
    · exact .inl rfl

/-- The markers of a queue that pass are those with no unreleased entry ahead of them (R150). -/
theorem passableFences_eq_fencesPassed (q : List QueueEntry) : passableFences q = fencesPassed q := by
  induction q with
  | nil => rfl
  | cons e rest ih =>
    match e with
    | .item ix true => simp [passableFences, ih, fencesPassed]
    | .item ix false => simp [passableFences, fencesPassed]
    | .fence tag => simp [passableFences, ih, fencesPassed]

end Sys2Proof.Laws
end

