-- ==== Sys2Proof/Laws/Reading.lean ====
section
/-! SUPPORT. What reading face memory does, once: the results count, the damage found is kept, and nothing else changes, while
the limit tally stays below the limit; and what an end-of-record character does. The statements speak of reads through
`wordsFound`, `readFrom` and `counted`, of arrivals through `recordOf`. -/

namespace Sys2Proof.Laws

open Sys2Proof.Machine Sys2Proof.Safety

/-! ## Counts -/

theorem satAdd_toNat (c : Count) (n : Nat) : (satAdd c n).toNat = min (c.toNat + n) 4294967295 := by
  simp only [satAdd, BitVec.toNat_ofNat]
  omega

@[simp] theorem satAdd_zero (c : Count) : satAdd c 0 = c := by
  apply BitVec.eq_of_toNat_eq
  rw [satAdd_toNat]
  have := c.isLt
  omega

theorem satInc_eq (c : Count) : satInc c = satAdd c 1 := by
  apply BitVec.eq_of_toNat_eq
  rw [satAdd_toNat]
  have := c.isLt
  unfold satInc
  split
  · rename_i h; subst h; decide
  · rename_i h
    have : c.toNat ≠ (BitVec.allOnes 32).toNat := fun e => h (BitVec.eq_of_toNat_eq e)
    rw [BitVec.toNat_add, show (1 : BitVec 32).toNat = 1 from rfl]
    simp only [BitVec.toNat_allOnes] at *
    omega

theorem satAdd_satAdd (c : Count) (m n : Nat) : satAdd (satAdd c m) n = satAdd c (m + n) := by
  apply BitVec.eq_of_toNat_eq
  simp only [satAdd_toNat]
  omega

/-! ## Reads -/

theorem wordsFound_succ (m : FaceMemory) (w n : Nat) (reads : List ReadResult) :
    wordsFound m w (n + 1) reads = m.readResult w (reads.headD .clean) :: wordsFound m (w + 1) n reads.tail := by
  simp only [wordsFound, List.range_succ_eq_map, List.map_cons, List.map_map]
  congr 1
  · cases reads <;> rfl
  · refine List.map_congr_left (fun i _ => ?_)
    cases reads <;> simp [Nat.add_assoc, Nat.add_comm 1]

theorem readFrom_cons (w : Nat) (r : ReadResult) (rest : List ReadResult) (s : State) :
    readFrom w (r :: rest) s = readFrom (w + 1) rest (readFrom w [r] s) := by
  simp only [readFrom, counted, noted, satAdd_satAdd, List.count_cons, List.count_nil]
  simp [Nat.add_comm]

theorem getKey_putKey_ne {α : Type} (k j : Nat) (v : α) (l : List (Nat × α)) (h : j ≠ k) :
    getKey j (putKey k v l) = getKey j l := by
  induction l with
  | nil => simp [putKey, getKey, Ne.symm h]
  | cons c rest ih =>
    unfold putKey
    split
    · simp [getKey, Ne.symm h]
    · split
      · rename_i e
        simp [getKey, ← e, Ne.symm h]
      · simp only [getKey, ih]

theorem readResult_noteDamage_ne (m : FaceMemory) (w v : Nat) (r now : ReadResult) (h : v ≠ w) :
    (m.noteDamage w r).readResult v now = m.readResult v now := by
  unfold FaceMemory.noteDamage
  split
  · rfl
  · simp only [FaceMemory.readResult, getKey_putKey_ne w v r _ h]

theorem wordsFound_noteDamage (m : FaceMemory) (w v n : Nat) (r : ReadResult) (reads : List ReadResult) (h : w < v) :
    wordsFound (m.noteDamage w r) v n reads = wordsFound m v n reads := by
  simp only [wordsFound]
  exact List.map_congr_left (fun i _ => readResult_noteDamage_ne m w (v + i) r _ (by omega))

/-- A read that latches no fault counts, and nothing else. -/
theorem readWord_counts (w : Nat) (now : ReadResult) (s : State)
    (h : s.fmc.mem.readResult w now ≠ .uncorrectable ∨ s.fmc.tally.toNat + 1 < 16) :
    readWord w now s = (readFrom w [s.fmc.mem.readResult w now] s, s.fmc.mem.readResult w now) := by
  unfold readWord
  simp only []
  congr 1
  rcases countResult_cases (s.fmc.mem.readResult w now)
    { s with fmc := { s.fmc with mem := s.fmc.mem.noteDamage w (s.fmc.mem.readResult w now) } } with
    ⟨hr, e⟩ | ⟨hr, e⟩ | ⟨hr, t, ht, e⟩ <;> rw [e]
  · simp [readFrom, counted, noted, hr]
  · simp [readFrom, counted, noted, hr, satInc_eq]
  · have small := h.resolve_left (fun x => x hr)
    rw [if_neg]
    · rw [ht]
      simp [readFrom, counted, noted, hr, satInc_eq]
    · simp only [satInc_eq, satAdd_toNat, Config.memoryLimit]
      omega

theorem wordsFound_length (m : FaceMemory) (w n : Nat) (reads : List ReadResult) : (wordsFound m w n reads).length = n := by
  simp [wordsFound]

/-- What reading words does when the tally stays below the limit: the results count, the damage found is kept, nothing else
changes (R46, R47). -/
theorem readWords_counts (n w : Nat) (reads : List ReadResult) (s : State)
    (h : (wordsFound s.fmc.mem w n reads).count .uncorrectable = 0 ∨
      s.fmc.tally.toNat + (wordsFound s.fmc.mem w n reads).count .uncorrectable < 16) :
    readWords n w reads s =
      (readFrom w (wordsFound s.fmc.mem w n reads) s,
        (wordsFound s.fmc.mem w n reads).map (fun r => decide (r = .uncorrectable))) := by
  induction n generalizing w reads s with
  | zero => simp [readWords, wordsFound, readFrom, counted, noted]
  | succ n ih =>
    rw [wordsFound_succ] at h ⊢
    have one := readWord_counts w (reads.headD .clean) s (by
      by_cases e : s.fmc.mem.readResult w (reads.headD .clean) = .uncorrectable
      · right
        rw [e] at h
        simp only [List.count_cons_self] at h
        omega
      · exact .inl e)
    unfold readWords
    simp only [one]
    have flm : ∀ v l, (readFrom v l s).flm = s.flm := fun _ _ => rfl
    have notLatched : latchedSince s (readFrom w [s.fmc.mem.readResult w (reads.headD .clean)] s) = false := by
      simp only [latchedSince, flm]
      cases s.flm.latch <;> rfl
    rw [notLatched]
    have same : wordsFound (readFrom w [s.fmc.mem.readResult w (reads.headD .clean)] s).fmc.mem (w + 1) n reads.tail =
        wordsFound s.fmc.mem (w + 1) n reads.tail := wordsFound_noteDamage _ _ _ _ _ _ (by omega)
    rw [ih (w + 1) reads.tail _ (by
      rw [same]
      simp only [List.count_cons] at h
      simp only [readFrom, counted, satAdd_toNat, List.count_cons, List.count_nil]
      omega), same]
    simp [← readFrom_cons]

/-- Results whose work has been discarded, the tally staying below the limit or a fault being latched, count, and nothing
else changes (R97). -/
theorem countResult_counts (r : ReadResult) (s : State)
    (h : r ≠ .uncorrectable ∨ s.fmc.tally.toNat + 1 < 16 ∨ s.flm.latch ≠ none) :
    countResult r s = { s with fmc := counted [r] s.fmc } := by
  rcases countResult_cases r s with ⟨hr, e⟩ | ⟨hr, e⟩ | ⟨hr, t, ht, e⟩ <;> rw [e]
  · simp [counted, hr]
  · simp [counted, hr, satInc_eq]
  · split
    · rename_i lim
      have latched : s.flm.latch ≠ none := by
        rcases h with h | h | h
        · exact absurd hr h
        · simp only [satInc_eq, satAdd_toNat, Config.memoryLimit] at lim; omega
        · exact h
      rw [latch, if_neg (fun x => latched (by rw [← x.1, ht])), ht]
      simp [counted, hr, satInc_eq]
    · rw [ht]
      simp [counted, hr, satInc_eq]

theorem countResults_count (reads : List ReadResult) (s : State)
    (h : s.fmc.tally.toNat + reads.count .uncorrectable < 16 ∨ s.flm.latch ≠ none) :
    reads.foldl (fun s r => countResult r s) s = { s with fmc := counted reads s.fmc } := by
  induction reads generalizing s with
  | nil => simp [counted]
  | cons r rest ih =>
    rw [List.foldl_cons, countResult_counts r s (by
      by_cases e : r = .uncorrectable
      · subst e; simp only [List.count_cons_self] at h; rcases h with h | h
        · exact .inr (.inl (by omega))
        · exact .inr (.inr h)
      · exact .inl e), ih _ (by
        rcases h with h | h
        · left; simp only [List.count_cons, counted, List.count_nil, satAdd_toNat] at h ⊢; omega
        · exact .inr h)]
    simp [counted, satAdd_satAdd, List.count_cons, Nat.add_comm]

/-! ## Arrivals -/

/-- With no record open an end-of-record character does nothing (R1). -/
theorem recordArrives_noRecord (r : Record) (destination : State → State) (s : State) (h : s.ilu.recordOpen = false) :
    recordArrives r destination s = s := by
  simp [recordArrives, discardsArrival, h]

/-- A record that is no header fault goes to its destination, the record being received over (R1, R2). -/
theorem recordArrives_sound (r : Record) (destination : State → State) (s : State) (h : s.ilu.recordOpen = true)
    (hp : s.flm.part ≠ .held) (hf : headerFaulty r = false) :
    recordArrives r destination s = destination (endReceiving s) := by
  simp [recordArrives, discardsArrival, h, hp, hf]

/-- A stream record of a payload within the limit is no header fault (R2). -/
theorem headerFaulty_stream (k : Byte) (st : Stream) (raw : Carried)
    (hk : isStreamKind k = true ∧ isManagementKind k = false) (hl : raw.payload.length ≤ 16384) :
    headerFaulty { kind := k, target := byteOf st.val, body := raw } = false := by
  have small : ¬ Config.maxPayload < raw.payload.length := Nat.not_lt.mpr hl
  have target : ¬ 15 < (byteOf st.val).toNat := by
    have := st.isLt
    simp only [byteOf, BitVec.toNat_ofNat]
    omega
  simp [headerFaulty, hk.1, hk.2, small, target]

/-- In OPERATING a raw record of an owned stream goes to the Stream Tracker (R4). -/
theorem rawDestination_own (r : Record) (st : Stream) (consume : State → State) (s : State) (hp : s.flm.part = .operating)
    (hr : (s.stk.map[st]).role = .own) : rawDestination r st consume s = consume s := by
  unfold rawDestination
  rw [if_pos ⟨hp, hr⟩]

end Sys2Proof.Laws
end

