-- ==== Sys2Proof/WellFormed.lean ====
section
/-! DEFINITION. The operands that keep a command inside its row of the table: what an arriving record can hold (R2, R19), and
which records and reads each row is for. A command that is not well formed still runs (log entry 21). -/

namespace Sys2Proof

/-- A payload no longer than the largest, and no payload check sent with an empty one (section 1.1). -/
def Carried.wellFormed (c : Carried) : Bool :=
  decide (c.payload.length ≤ Config.maxPayload) && (!c.payload.isEmpty || c.check == 0)

/-- The parameters leave room for the code byte. -/
def Directive.wellFormed (d : Directive) : Bool := decide (d.params.length < Config.maxPayload)

/-- One read result for each word of the widest row, at most (R85). -/
def rowReads (reads : List ReadResult) : Bool := decide (reads.length ≤ 320)

/-- One read result for each word of the longest segment, at most (R159). -/
def segmentReads (reads : List ReadResult) : Bool := decide (reads.length ≤ 2047)

/-- The parity error lies in one of the reads that the step can make. -/
def parityAmong (allowed : List ParityRead) : Option ParityRead → Bool
  | none => true
  | some p => allowed.contains p

/-- The operands are those of the command's row. -/
def Instr.wellFormed : Instr → Bool
  | .pinResetAssert => true
  | .pinResetRelease => true
  | .startOfRecord => true
  | .framingFault _ => true
  | .headerFault bytes =>
    decide (bytes.length ≤ 16396) && (Machine.parseRecord bytes).isNone
  | .itemOpen _ rec parity => rec.wellFormed && parityAmong [.context, .record, .entry, .release] parity
  | .faceOpen _ rec parity => rec.wellFormed && parityAmong [.context, .record] parity
  | .strip _ rec parity => rec.wellFormed && parityAmong [.context, .record] parity
  | .itemClose _ rec parity => rec.wellFormed && parityAmong [.context, .record, .release] parity
  | .itemCancel _ rec parity => rec.wellFormed && parityAmong [.context, .record, .converter, .release] parity
  | .stallExpiry _ parity => parityAmong [.context, .record, .converter, .release] parity
  | .fill _ rec => rec.wellFormed
  | .producedRecord _ _ rec => rec.wellFormed
  | .notice _ rec => rec.wellFormed
  | .unknownKind kind _ rec => rec.wellFormed && !Machine.isKnownKind kind
  | .directiveOtherStation station rec => rec.wellFormed && station.val != Config.broadcast
  | .directiveUnknownCode _ rec =>
    rec.wellFormed && (rec.payload.isEmpty || (rec.payload.headD 0).toNat = 0 || decide (15 < (rec.payload.headD 0).toNat))
  | .statusQuery dir => dir.wellFormed
  | .writeProfile dir => dir.wellFormed
  | .readProfile dir parity => dir.wellFormed && parityAmong [.entry] parity
  | .loadCodeTable dir => dir.wellFormed
  | .loadToneCurve dir => dir.wellFormed
  | .loadRule dir => dir.wellFormed
  | .setStreamRole dir => dir.wellFormed && parityAmong [.context] dir.parity
  | .quiesce dir => dir.wellFormed
  | .resume dir => dir.wellFormed
  | .restart dir => dir.wellFormed
  | .setPacing dir => dir.wellFormed
  | .fence dir => dir.wellFormed
  | .markLinkError dir => dir.wellFormed
  | .writeStartUp dir => dir.wellFormed
  | .readStartUp dir => dir.wellFormed
  | .activityTimerExpiry => true
  | .pacingEighth => true
  | .scuInputRow _ parity => parityAmong [.entry] parity
  | .lastRowWriteComplete _ parity => parityAmong [.converter] parity
  | .cnvGreyRow reads parity => rowReads reads && parityAmong [.entry, .converter, .release] parity
  | .attemptFit parity => parityAmong [.converter] parity
  | .evaluationEnd parity => parityAmong [.entry, .converter, .release] parity
  | .codedSegmentComposed reads parity => segmentReads reads && parityAmong [.release] parity
  | .egressRecordEnd parity => parityAmong [.release] parity
  | .egressHoldAssert => true
  | .egressHoldRelease => true
  | .scrubComplete => true
  | .verifyComplete => true
  | .eraseComplete => true
  | .storeWriteComplete => true
  | .verifyRead word _ _ => decide (word < Config.verifyWords)
  | .passThroughRead word _ => decide (word < 2050)

end Sys2Proof
end

