-- ==== Sys2Proof/Tests/Slice0.lean ====
section
/-! SUPPORT. The model's own tests: an ill-formed command for each check of WellFormed, the worked examples of spec/, and for
each statement with hypotheses a state and operands that meet them together. -/

namespace Sys2Proof.Tests

set_option Elab.async false

open Sys2Proof.Machine Sys2Proof.Safety

/-! ## Helpers -/

/-- A payload with its right payload check. -/
def carried (payload : List Byte) : Carried := { tag := 7, payload := payload, check := crc32 payload }

/-- A directive to the station with the right payload check. -/
def directive (station : Fin 32) (code : Byte) (params : List Byte) : Directive :=
  { target := station, tag := 0x0102, params := params, check := crc32 (code :: params) }

/-- The part OPERATING with every slot free and nothing in it but a record being received. -/
def operating : State :=
  let ilu := { State.reset.ilu with recordOpen := true }
  let fmc := { State.reset.fmc with slots := Vector.replicate 48 .free, scrubOrder := [] }
  { State.reset with flm := { part := .operating, latch := none }, ilu := ilu, fmc := fmc }

/-- The part in BYPASS with cause MEMORY_LIMIT, its link between records, a record being received. -/
def bypassed : State :=
  let elu := { State.reset.elu with link := .between }
  let ilu := { State.reset.ilu with recordOpen := true }
  { State.reset with flm := { part := .bypass, latch := some .memoryLimit }, ilu := ilu, elu := elu }

/-- The part held in reset. -/
def held : State :=
  let elu := { State.reset.elu with link := .idleCharacters }
  { State.reset with flm := { part := .held, latch := none }, elu := elu }

/-- A face of 64 by 32 pixels that a step 256 leaves as it is. -/
def face (x : FaceState) (slot : Option Slot) : FaceRecord :=
  { side := .front, captureDpi := 200, declWidth := 64, declHeight := 32, keptWidth := 64, keptHeight := 32, outWidth := 64,
    outHeight := 32, slot := slot, state := x, meanGrey := 0, blackCount := 0, blackRatio := 0, codedBytes := 0, attempts := 0,
    finalK := 0, finalL := 0, flags := 0, disposition := none }

/-- An item of stream 3 declared with two faces. -/
def item (x : ItemState) (faces : List FaceRecord) : ItemRecord :=
  { stream := 3, seq := 7, declared := 2, profile := Profile.factory, state := x, faces := faces, flags := 0, outcome := none,
    overtaken := 0, pendingSent := false }

/-- A release in progress, of item 5. -/
def releasing : Release := { item := 5, current := .result, offered := none, rest := [] }

/-- The part OPERATING, owning stream 3, whose context is as given, with this item in entry 0. -/
def owning (x : CtxState) (i : Option ItemIx) (n : Option Nat) (r : Option ItemRecord) : State :=
  let context := { state := x, item := i, face := n, rows := 0, timer := if i.isSome then some 50 else none }
  let stk := { operating.stk with
    map := operating.stk.map.set 3 { role := .own, pending := none }
    contexts := operating.stk.contexts.set 3 context
    items := operating.stk.items.set 0 r }
  let rel := { operating.rel with queues := operating.rel.queues.set 3 [.item 0 false], release := some releasing }
  { operating with stk := stk, rel := rel }

/-- Its item open, no face being filled. -/
def openItem (faces : List FaceRecord) : State := owning .item (some 0) none (some (item .opened faces))

/-- Its item open with face 0 being filled from slot 0. -/
def filling : State :=
  let s := owning .face (some 0) (some 0) (some (item .opened [face .filling (some 0)]))
  let fmc := { s.fmc with slots := s.fmc.slots.set 0 .filling }
  { s with scu := s.scu.set 0 (some (bindContext 200 64 32 200 0)), fmc := fmc }

/-- Its item closed, the engine at work on its face in slot 0. -/
def converting (w : Work) : State :=
  let s := owning .idle none none (some (item .opened [face .converting (some 0)]))
  let fmc := { s.fmc with slots := s.fmc.slots.set 0 .converting }
  { s with fmc := fmc, cnv := some w }

/-- The engine's work state for that face. -/
def work : Work := takenWork 0 0 0 (face .ready (some 0)) Profile.factory

/-- The part with the mark of the queue entry of item 0 set: its release has completed. -/
def released0 (s : State) : State := { s with rel := { s.rel with queues := s.rel.queues.set 3 [.item 0 true] } }

/-- The part with a role waiting for stream 3. -/
def rolePending (s : State) : State :=
  { s with stk := { s.stk with map := s.stk.map.set 3 { role := .own, pending := some (.pass, 9) } } }

/-- What one row does to the coder, its words having these reports. -/
def rowEnds (w : Work) (reads : List ReadResult) : Releases :=
  let mem := (converting w).fmc.mem
  let base := greyBase w.slot + w.nextRow * 2560
  let row := taken mem base w.width 255 (wordsFound mem (base / 8) ((w.width + 7) / 8) reads)
  let pixels := thresholdRow w.k w.params.tmin w.params.tmax w.background row
  releaseRows fixedEntries w (releasedRows w.l w.height w.nextRow w.window pixels)

/-- The part with this quiesce state. -/
def quiet (q : QuiesceState) : State := { operating with dru := { operating.dru with quiesce := q } }

/-- The part with `n` items in the item table, in its lowest entries, owning stream 3. -/
def crowded (n : Nat) : State :=
  let s := owning .idle none none none
  let stk := { s.stk with items := Vector.ofFn (fun i : Fin 32 => if i.val < n then some (item .closed []) else none) }
  { s with stk := stk }

/-- The part OPERATING with `n` slots free and no face in the others, which wait to be wiped. -/
def crammed (n : Nat) : State :=
  let slots := Vector.ofFn (fun k : Fin 48 => if k.val < n then SlotState.free else .scrubbing)
  { operating with fmc := { operating.fmc with slots := slots } }

/-- The part with another item, CLOSED, whose face in slot 40 is READY, at the head of the ready queue. -/
def faceWaits (s : State) : State :=
  { s with
    stk := { s.stk with items := s.stk.items.set 9 (some (item .closed [face .ready (some 40)])) }
    fmc := { s.fmc with slots := s.fmc.slots.set 40 .ready, ready := 40 :: s.fmc.ready } }

/-- The part with no release in progress. -/
def releaseIdle (s : State) : State := { s with rel := { s.rel with release := none } }

/-! ## Ill-formed commands, one for each check -/

theorem test_wellFormed_payload_too_long :
    Instr.wellFormed (.fill 0 (carried (List.replicate 16385 0))) = false := by decide +kernel
theorem test_wellFormed_check_without_payload :
    Instr.wellFormed (.notice 0 { tag := 0, payload := [], check := 1 }) = false := by decide
theorem test_wellFormed_params_too_long :
    Instr.wellFormed (.restart { target := 0, tag := 0, params := List.replicate 16384 0, check := 0 }) = false := by decide +kernel
theorem test_wellFormed_too_many_row_reads :
    Instr.wellFormed (.cnvGreyRow (List.replicate 321 .clean) none) = false := by decide +kernel
theorem test_wellFormed_too_many_segment_reads :
    Instr.wellFormed (.codedSegmentComposed (List.replicate 2048 .clean) none) = false := by decide +kernel
theorem test_wellFormed_parity_of_no_read : Instr.wellFormed (.scuInputRow 0 (some .context)) = false := by decide
theorem test_wellFormed_role_reads_context_alone :
    Instr.wellFormed (.setStreamRole { directive 0 0x07 [3, 1] with parity := some .record }) = false := by decide +kernel
theorem test_wellFormed_sound_bytes_are_no_header_fault :
    Instr.wellFormed (.headerFault (recordBytes (fillRecord []))) = false := by decide +kernel
theorem test_wellFormed_bytes_too_long : Instr.wellFormed (.headerFault (List.replicate 16397 0)) = false := by decide +kernel
theorem test_wellFormed_known_kind_is_not_unknown : Instr.wellFormed (.unknownKind 0x10 0 (carried [])) = false := by decide
theorem test_wellFormed_broadcast_is_no_other_station : Instr.wellFormed (.directiveOtherStation 31 (carried [])) = false := by decide
theorem test_wellFormed_known_code_is_not_unknown : Instr.wellFormed (.directiveUnknownCode 30 (carried [1, 0])) = false := by
  decide +kernel
theorem test_wellFormed_word_outside_slots : Instr.wellFormed (.verifyRead 20447232 .clean false) = false := by decide
theorem test_wellFormed_word_outside_entry : Instr.wellFormed (.passThroughRead 2050 .clean) = false := by decide

/-! ## Worked examples of spec/ -/

/-- The two checks on the digits 1 to 9: the published check values of the codes with the parameters of R2 and R3 (from outside the
spec). -/
theorem test_checks_of_digits :
    crc16 [0x31, 0x32, 0x33, 0x34, 0x35, 0x36, 0x37, 0x38, 0x39] = 0x29B1 ∧
      crc32 [0x31, 0x32, 0x33, 0x34, 0x35, 0x36, 0x37, 0x38, 0x39] = 0xFC891918 := by decide +kernel
/-- The table of R67. -/
theorem test_step_table :
    [scaleStep 400 100, scaleStep 400 200, scaleStep 400 300, scaleStep 300 200, scaleStep 240 200, scaleStep 200 150,
      scaleStep 200 200, scaleStep 100 200] = [1024, 512, 341, 384, 307, 341, 256, 256] := by decide
/-- Section 4.9, first example: sizes and the horizontal pass of the first row. -/
theorem test_horizontal_example :
    (outputSize 1200 384, outputSize 900 384) = (800, 600) ∧
      horizontalPass 384 4 [200, 100, 50, 250, 255, 0] = [167, 67, 252, 85] := by decide
/-- Section 4.9, first example: rows 0 and 1 of the output. -/
theorem test_vertical_example :
    let c : ScaleCtx := { bindContext 300 6 9 200 0 with outWidth := 4, line := List.replicate 4 0 }
    let a := takeInputRow State.reset.dru c (.samples [200, 100, 50, 250, 255, 0])
    let b := takeInputRow State.reset.dru a.1 (.samples (List.replicate 6 100))
    let d := takeInputRow State.reset.dru b.1 (.samples (List.replicate 6 0))
    a.1.line = [42752, 17152, 64512, 21760] ∧ b = ({ b.1 with }, some (0, [145, 78, 201, 90])) ∧
      b.1.line = [12800, 12800, 12800, 12800] ∧ d.2 = some (1, [33, 33, 33, 33]) ∧ d.1.line = [0, 0, 0, 0] := by decide +kernel
/-- Section 5.11, first example: thresholds and backgrounds of a column through six rows. -/
theorem test_background_example :
    [threshold 200 40 220 4080, threshold 200 40 220 4030, threshold 200 40 220 3977, threshold 200 40 220 3960] =
        [199, 196, 194, 193] ∧
      [nextBackground 48 4080 230, nextBackground 48 4030 120, nextBackground 48 4030 225, nextBackground 48 3977 60,
        nextBackground 48 3977 240, nextBackground 48 3960 250] = [4030, 4030, 3977, 3977, 3960, 3965] ∧
      nextBackground 48 4080 150 = 4080 ∧ nextBackground 127 4080 150 = 3870 := by decide
/-- Section 5.11, the speck and the stroke: row 0 loses its speck; the stroke goes at level 3. -/
theorem test_despeckle_example :
    let r0 := [false, true, false, false, false]
    let r1 := [false, false, false, true, true]
    let r2 := [false, false, false, true, false]
    let w := whiteRow 5
    despeckle 1 w r0 r1 = w ∧ despeckle 1 r0 r1 r2 = r1 ∧ despeckle 2 r1 r2 w = r2 ∧ despeckle 3 r0 r1 r2 = w := by decide
/-- The ladder of R83 for the values after pin reset. -/
theorem test_ladder :
    [attemptK Profile.factory 0, attemptK Profile.factory 1, attemptK Profile.factory 2] = [200, 184, 168] ∧
      [attemptL Profile.factory 0, attemptL Profile.factory 1, attemptL Profile.factory 2] = [1, 2, 3] ∧
      [attemptLimit Profile.factory 0, attemptLimit Profile.factory 2] = [65536, 131072] := by decide
/-- Section 6.10: a face of 16 by 8 coded in 88 bits. -/
theorem test_coded_face_example :
    let row := fun (a b c : Nat) => List.replicate a false ++ List.replicate b true ++ List.replicate c false
    let rows := [row 16 0 0, row 16 0 0, row 2 3 11, row 2 3 11, row 0 10 6, row 0 16 0, row 8 8 0, row 16 0 0]
    let start : CodeRun := { coder := Coder.fresh, words := [], stopped := false }
    let run := fun limit => rows.foldl (codeRow fixedEntries Profile.factory limit) start
    (run 1000).coder.bitCount = 86 ∧ (run 1000).coder.wordsWritten = 1 ∧ (run 1000).coder.rowsCoded = 8 ∧
      (appendFaceEnd fixedEntries 1000 (run 1000)).coder.bytes = 11 ∧
      (appendFaceEnd fixedEntries 1000 (run 1000)).coder.finish.wordsWritten = 2 ∧ (run 9).stopped = true ∧ (run 9).coder.bytes = 10 ∧
      blackRatioOf 40 16 8 = 3125 := by decide +kernel
/-- Section 6.10: the sums of a loaded table, sound and not. -/
theorem test_sum_example :
    let set := fun (ls : List Nat) => ls.map (fun l => ({ length := l, value := 0 } : CodeEntry))
    let colour := set (List.replicate 64 7 ++ List.replicate 40 8)
    sumCheck (set [1, 2, 3, 3] ++ colour ++ colour) = true ∧ setSum colour = 43008 ∧
      sumCheck (set [1, 2, 2, 3] ++ colour ++ colour) = false := by decide +kernel
/-- Section 8.7: the rule chain, back face. -/
theorem test_rule_chain_example :
    let blank := { Rule.blank with valid := true, side := .any }
    let rules := ((((State.reset.dru.rules.set 0 { blank with measure := .flagsAny, value := 0x00400000 }).set 1
      { blank with value := 30, needs := some 0, sets := 1, action := .suspect }).set 2
      { blank with side := .front, comparison := .greater, value := 2500, sets := 2, action := .withhold }).set 3
      { blank with side := .back, measure := .meanGrey, value := 120, sets := 3 }).set 4
      { blank with measure := .flagsAny, value := 0x0000000A, sets := 4 }
    let back := { face .converting none with side := .back, blackRatio := 18, meanGrey := 236, codedBytes := 1310 }
    let front := { face .converting none with blackRatio := 2900 }
    ruleResult .coded (takeEntries rules back 0x1F 0x00400000) = (0x02400013, .coded) ∧
      ruleResult .coded (takeEntries rules front 0x1F 0) = (0x00000004, .withheldRule) := by decide +kernel
/-- Section 11's example: the check byte of station 4, streams 3 and 4, mark 8, link notices on. -/
theorem test_check_byte_example :
    (programmedCells { station := 4, mask := 0x0018, mark := 8, linkNotices := true })[5] = 37 := by decide
/-- Chapter 9's example: 20,000 coded bytes make two segments. -/
theorem test_segments_example :
    segmentCount 20000 = 2 ∧ (segmentLength 20000 0, segmentLength 20000 1) = (16376, 3624) := by decide
/-- Section 1's example: a marked FILL costs a monitor in SYNC one mismatch, 40 bits into a block. -/
theorem test_marked_fill_example :
    let m : Monitor := { state := .sync, predictor := 0x1234, position := 40, mismatches := 0, count := 17 }
    let after := (bitsOf (fillPayload 0x1234 true).1).foldl monitorBit m
    after.count = 18 ∧ after.state = .sync ∧ after.predictor = (fillPayload 0x1234 true).2 := by decide +kernel
/-- The classification example of chapter 1, arrivals 4 and 6: a broadcast FENCE is consumed and passed; an unknown kind is passed
and counted. -/
theorem test_classification_example :
    let t := nextOr operating (exec (.fence (directive 31 0x0C [3])) operating)
    let u := nextOr operating (exec (.unknownKind 0x40 9 (carried [1])) operating)
    t.elu.fifo.length = 1 ∧ t.dru.notices.length = 2 ∧ u.elu.fifo.length = 1 ∧ u.ilu.unknownKinds = 1 := by decide +kernel

/-- R1: after a framing fault the end-of-record character of what was a record is discarded, counted nowhere. -/
theorem test_no_record_open_is_discarded :
    let s := nextOr operating (exec (.framingFault .tooLong) operating)
    s.ilu.headerFaults = 1 ∧ exec (.unknownKind 0x40 9 (carried [1])) s = .next s ∧ exec (.headerFault []) s = .next s :=
  ⟨by decide +kernel, rfl, rfl⟩
/-- R12: entry into BYPASS discards the block, not the state or the count. -/
theorem test_bypass_discards_block :
    let m : Monitor := { state := .sync, predictor := 1, position := 40, mismatches := 3, count := 9 }
    let t := latch .tableParity { operating with ilu := { operating.ilu with monitor := m } }
    t.flm.part = .bypass ∧ t.ilu.monitor = { m with position := 0, mismatches := 0 } := by decide +kernel
/-- R128: an abort between two attempts stops the engine at once. -/
theorem test_abort_between_attempts :
    let s := owning .item (some 0) (some 0) (some (item .opened [face .converting (some 0)]))
    let fmc := { s.fmc with slots := s.fmc.slots.set 0 .converting }
    let t := nextOr s (exec (.itemCancel 3 (carried []) none)
      { s with cnv := some { work with phase := .boundary, attempt := 1 }, fmc := fmc })
    t.cnv = none ∧ t.fmc.scrubOrder = [0] := by decide +kernel
/-- R148: the Release Engine's read of an item record at a decision latches, a release being in progress. -/
theorem test_parity_at_decision :
    let t := nextOr (openItem []) (exec (.itemClose 3 (carried []) (some .release)) (openItem []))
    t.flm = { part := .bypass, latch := some .tableParity } := by decide +kernel
/-- R97: late results of discarded reads count. -/
theorem test_late_results_count :
    (nextOr operating (exec (.cnvGreyRow [.uncorrectable, .clean] none) operating)).fmc.uncorrectable = 1 := by decide +kernel

/-! ## A state and operands that meet the hypotheses of each statement -/

/-- The part of `s` with one command waiting. -/
def waiting (c : Instr) (s : State) : State := { s with pending := [c] }

theorem test_meets_StepRunsFrontCommand :
    (waiting .pacingEighth operating).pending = .pacingEighth :: [] ∧ operating.pending = [] := ⟨rfl, rfl⟩
theorem test_meets_CommandsKeepQueueAndSettings :
    (∃ t, exec .pacingEighth operating = .next t) ∧ Instr.pacingEighth ≠ .pinResetRelease := ⟨⟨_, rfl⟩, by decide⟩
theorem test_meets_PartStateTransitions :
    LatchSound (waiting .pacingEighth bypassed) ∧ (∃ t, step (waiting .pacingEighth bypassed) = .next t) ∧
      ∃ t, exec .verifyComplete State.reset = .next t := by
  refine ⟨?_, ⟨_, rfl⟩, ⟨_, rfl⟩⟩
  unfold LatchSound
  decide +kernel

/-- A part with one face kept in slot 0, one byte of it in memory, and one record in the pass-through FIFO, its last entry. -/
def loaded : State :=
  let s := openItem []
  let mem : FaceMemory := { cells := [(3276800, 1)], damage := [(409600, .corrected)] }
  { waiting .pacingEighth s with
    fmc := { s.fmc with slots := (s.fmc.slots.set 0 .coded).set 1 .scrubbing, scrubOrder := [1], mem := mem }
    elu := { s.elu with fifo := [{ entry := 63, length := 16396 }], link := .sending .passThrough [] } }

theorem test_meets_MemoryStaysCanonical : MemoryCanonical loaded ∧ ∃ t, step loaded = .next t := by
  refine ⟨?_, ⟨_, rfl⟩⟩
  unfold MemoryCanonical
  decide +kernel
theorem test_meets_LinkStaysSound : LinkSound loaded ∧ ∃ t, step loaded = .next t := by
  refine ⟨?_, ⟨_, rfl⟩⟩
  unfold LinkSound
  decide +kernel
theorem test_meets_FifoStaysSound : FifoSound loaded ∧ ∃ t, step loaded = .next t :=
  ⟨⟨by decide +kernel, by decide +kernel, by decide +kernel, fun _ _ => by simp [loaded]⟩, ⟨_, rfl⟩⟩
theorem test_meets_SlotsStayAccounted : SlotsAccounted loaded ∧ ∃ t, step loaded = .next t := by
  refine ⟨?_, ⟨_, rfl⟩⟩
  unfold SlotsAccounted
  decide +kernel

/-- A part QUIESCING with every queue of notices, grants and fence markers full. -/
def fullQueues : State :=
  let n : Notice := { kind := .ready, status := .done, subject := 0, tag := 0, fields := [0, 30] }
  { waiting .pacingEighth operating with
    dru := { operating.dru with quiesce := .quiescing, owed := [1, 2, 3, 4], notices := List.replicate 16 n }
    rel := { operating.rel with queues := operating.rel.queues.set 15 [.item 0 false, .fence 1, .fence 2] } }

theorem test_meets_QueuesStayBounded : QueuesBounded fullQueues ∧ ∃ t, step fullQueues = .next t := by
  refine ⟨?_, ⟨_, rfl⟩⟩
  unfold QueuesBounded
  decide +kernel
theorem test_meets_WorkStaysInOperating :
    WorkOnlyInOperating (waiting .scrubComplete State.reset) ∧ ∃ t, step (waiting .scrubComplete State.reset) = .next t := by
  refine ⟨fun _ => ?_, ⟨_, rfl⟩⟩
  constructor <;> decide +kernel
theorem test_meets_FreeSlotsStayWiped :
    FreeSlotsWiped loaded ∧ loaded.fmc.slots[2] = .free ∧ ∃ t, step loaded = .next t := by
  refine ⟨⟨?_, ?_, ?_⟩, by decide +kernel, ⟨_, rfl⟩⟩
  · unfold MemoryCanonical
    decide +kernel
  · intro k c h
    have none : ∀ k : Slot, loaded.scu[k] = none := by decide +kernel
    rw [none k] at h
    exact absurd h (by simp)
  · intro k h a low _
    have first : k ≠ 0 := by rintro rfl; exact absurd h (by decide +kernel)
    have one : 1 ≤ k.val := Nat.one_le_iff_ne_zero.mpr (fun e => first (Fin.ext e))
    have above : 3276800 ≠ a := by simp only [Config.slotBytes] at low; omega
    simp [loaded, FaceMemory.read, getKey, above]

/-- The payload of a WRITE_PROFILE of entry 31 with the values that entry 0 has after pin reset. -/
def factoryPayload : List Byte := [0x02, 31] ++ (profileBytes Profile.factory)

theorem test_meets_RecordBytesReadBack :
    ∀ r ∈ [madeRecord 0x12 15 0xFFFF [1, 2, 3], madeRecord 0x40 0xFF 0 [], madeRecord 0x31 31 1 (List.replicate 16384 0)],
      headerFaulty r = false ∧ (r.body.payload = [] → r.body.check = 0) := by decide +kernel
theorem test_meets_ProfileReadsBackAsWritten :
    factoryPayload.length = 31 ∧ firstOutOfRange (profileRanges State.reset.dru factoryPayload) = none := by decide +kernel
theorem test_meets_ProgrammedStoreReadsBack :
    ∀ c ∈ [({ station := 30, mask := 0xFFFF, mark := 4, linkNotices := true } : Settings), { Settings.blank with mark := 24 }],
      c.station ≤ 30 ∧ 4 ≤ c.mark ∧ c.mark ≤ 24 := by decide
theorem test_meets_OneFillReachesSync :
    State.reset.ilu.monitor.state = .hunt ∧ State.reset.ilu.monitor.position = 0 ∧ State.reset.ilu.monitor.mismatches = 0 ∧
      State.reset.elu.fillGen ≠ 0 := by decide +kernel
theorem test_meets_MarkedFillCostsOneMismatch_trial :
    let m : Monitor := { state := .hunt, predictor := 0x1234, position := 0, mismatches := 0, count := 9 }
    let seed := (List.replicate 14 false) ++ [true]
    let run := (fillRun 128 (seed.foldl fillShift 0)).1
    m.state = .hunt ∧ m.position = 0 ∧ m.mismatches = 0 ∧ seed.length = 15 ∧ run.length = 128 ∧ (∃ b ∈ seed, b = true) ∧
      mismatched (run.set 127 (!run.getD 127 false)) run = 1 ∧ mismatched ((run.take 4).map (!·) ++ run.drop 4) run = 4 ∧
      (∀ b ∈ List.replicate 15 false, b = false) := by decide +kernel
theorem test_meets_MarkedFillCostsOneMismatch_block :
    let m : Monitor := { state := .sync, predictor := 0x1234, position := 0, mismatches := 0, count := 9 }
    let run := (fillRun 128 m.predictor).1
    m.state = .sync ∧ m.position = 0 ∧ m.mismatches = 0 ∧ run.length = 128 ∧
      mismatched ((run.take 11).map (!·) ++ run.drop 11) run = 11 ∧
      mismatched ((run.take 12).map (!·) ++ run.drop 12) run = 12 := by decide +kernel
theorem test_meets_MarkedFillCostsOneMismatch :
    let m : Monitor := { state := .sync, predictor := 1, position := 127, mismatches := 10, count := 0 }
    m.state = .sync ∧ m.position < 128 ∧ m.mismatches + true.toNat < 12 ∧ (m.mismatches + 1) + false.toNat < 12 := by decide
theorem test_meets_ScaleStepAndOutputSize : ∀ x ∈ [(100, 300), (200, 200), (400, 100), (101, 100)],
    100 ≤ x.1 ∧ x.1 ≤ 400 ∧ 100 ≤ x.2 ∧ x.2 ≤ 300 := by decide
theorem test_meets_HorizontalValueAveragesOverlap :
    256 ≤ 384 ∧ 384 ≤ 1024 ∧ (3 + 1) * 384 ≤ 256 * [200, 100, 50, 250, 255, 0].length := by decide
theorem test_meets_ThresholdClampedAndCompared :
    let bg := [4080, 0]
    let row : List Byte := [255, 0]
    0 < bg.length ∧ 0 < row.length ∧ 255 ≤ 255 ∧ 0 ≤ 255 ∧ bg[0] ≤ 4080 ∧ row[0] = 255 := by decide
theorem test_meets_BackgroundFollowsPaper :
    let bg := [4080, 0]
    let row : List Byte := [255, 0]
    1 < bg.length ∧ 1 < row.length ∧ bg[0] ≤ 4080 := by decide
theorem test_meets_DespeckleCountsNeighbours :
    let row := [true, false, true]
    2 < row.length ∧ (whiteRow 3).length = row.length ∧ ([true, true, true] : List Bool).length = row.length := by decide
theorem test_meets_CoderKeepsEveryBit :
    let c := { Coder.fresh with bitCount := 63, hand := List.replicate 63 true }
    (∀ e ∈ fixedEntries, 1 ≤ e.length ∧ e.length ≤ 16) ∧
      (∀ x ∈ [CodeName.control .faceEnd, .terminal false 63, .bulk true 40], codeIndex x < fixedEntries.length) ∧
      c.hand.length < 64 ∧ c.bitCount = 64 * c.wordsWritten + c.hand.length ∧ c.bytes ≤ 8 := by decide +kernel
theorem test_meets_SumCheckPerSet :
    (fixedEntries.take 4).length = 4 ∧ ((fixedEntries.drop 4).take 104).length = 104 ∧ (fixedEntries.drop 108).length = 104 := by
  decide +kernel
theorem test_meets_RuleTests :
    let value := { Rule.blank with valid := true, side := .any, measure := .meanGrey, value := 1000 }
    let flags := { value with measure := .flagsAny, value := 0x01000000 }
    let f := face .converting none
    value.measure ≠ .flagsAny ∧ value.measure = .meanGrey ∧ value.value = 1000 ∧ f.meanGrey ≤ 255 ∧
      flags.measure = .flagsAny ∧ takesPart f 0x80000000 31 flags = true ∧ needsMet 0x01000000 flags.needs = true ∧
      (∃ i < 32, (0x01000000 : BitVec 32).getLsbD i = true ∧ flags.value.getLsbD i = true) ∧
      (∀ i < 25, (0x02000000 : BitVec 32).getLsbD i = false) ∧ (List.replicate 13 (0 : Byte)).length = 13 := by decide +kernel
theorem test_meets_OutcomeTable :
    let kept := { face .final none with disposition := some .coded }
    let lost := { face .final none with disposition := some .withheldRule }
    let marked := { kept with flags := flagSuspect }
    [itemOutcome (item .closed []), itemOutcome (item .closed [kept, lost]), itemOutcome (item .closed [marked]),
      itemOutcome (item .closed [kept])] = [.failed, .partialOutcome, .suspect, .accepted] := by decide
theorem test_meets_HoldLineFollowsCauses :
    held.flm.part = .held ∧ State.reset.flm.part = .starting ∧ bypassed.flm.part = .bypass ∧ operating.flm.part = .operating := by
  decide +kernel

/-! ### The ingress link -/

theorem test_meets_StartOfRecordOpensRecord :
    let down := { State.reset with
      ilu := { State.reset.ilu with monitor := { State.reset.ilu.monitor with state := .down } } }
    bypassed.flm.part = .bypass ∧ (operating.flm.part ≠ .bypass ∧ operating.ilu.monitor.state ≠ .down) ∧
      down.flm.part ≠ .held ∧ down.flm.part ≠ .bypass ∧ down.ilu.monitor.state = .down := by decide +kernel
theorem test_meets_FaultyRecordsDroppedAndCounted :
    let header := recordBytes (madeRecord 0x10 16 0 [])
    operating.flm.part ≠ .held ∧ operating.ilu.recordOpen = true ∧ State.reset.flm.part ≠ .held ∧
      State.reset.ilu.recordOpen = false ∧ (recordOf (.notice 0 (carried []))).isSome = true ∧
      ([] : List Byte).length < 8 ∧ (crc16 ([0, 0, 0, 0, 0, 0, 0, 0].take 6)).toNat ≠ param [0, 0, 0, 0, 0, 0, 0, 0] 6 2 ∧
      (header.getD 0 0 ∈ ([0x10] : List Byte) ∧ 15 < (header.getD 1 0).toNat) ∧ header.length = 8 := by decide +kernel
theorem test_meets_FaultyRecordsDroppedAndCounted_payloads :
    let s := owning .discard none none none
    let broken : Carried := { carried [1] with check := 1 }
    s.ilu.recordOpen = true ∧ s.flm.part = .operating ∧ (s.stk.map[3]).role = .own ∧ (s.stk.contexts[3]).state = .discard ∧
      checkOk broken = false ∧ (carried [1]).payload.length ≠ 0 ∧ (carried [1]).payload.length ≠ 6 ∧
      1 < param (carried [2, 0, 0, 0, 0, 0, 0]).payload 0 1 ∧ checkOk (carried [1, 0, 0, 0, 0, 0, 0]) = true ∧
      param (carried [1, 0, 0, 0, 0, 0, 0]).payload 0 1 ≤ 1 ∧ checkOk (carried []) = true := by decide +kernel
theorem test_meets_FillFeedsMonitor :
    let receiving := { State.reset with ilu := { State.reset.ilu with recordOpen := true } }
    receiving.flm.part = .starting ∧ receiving.ilu.recordOpen = true ∧ operating.flm.part = .operating ∧
      operating.ilu.recordOpen = true ∧ (carried (List.replicate 16384 0)).payload.length ≤ 16384 ∧
      operating.sus.working.linkNotices = false := by decide +kernel
theorem test_meets_TimersExpire :
    operating.flm.part = .operating ∧ operating.ilu.activityTimer = true ∧ operating.flm.part ≠ .held := by decide +kernel
theorem test_meets_PassedRecordJoinsFifo :
    let s := { operating with elu := { operating.elu with fifo := [{ entry := 0, length := 8 }] } }
    (∀ c ∈ [Instr.itemOpen 0 (carried []) none, .producedRecord .itemResult 15 (carried [1]), .notice 31 (carried [1]),
        .unknownKind 0xFF 0xFF (carried [1]), .directiveOtherStation 9 (carried [1]), .directiveUnknownCode 9 (carried [0]),
        .restart (directive 9 0x0A [])],
      (recordOf c).any (fun r => headerFaulty r = false) = true ∧ passesThrough s c = true) ∧
    s.elu.fifo.length < 64 ∧ s.fmc.mem.wf = true ∧ s.flm.part = .operating ∧ s.ilu.recordOpen = true ∧
    bypassed.ilu.recordOpen = true ∧ bypassed.elu.link = .between ∧ bypassed.elu.holdInput = false ∧
    bypassed.dru.notices = [] ∧ bypassed.elu.fifo = [] ∧
    (recordOf (.fill 0 (carried [1]))).any (fun r => headerFaulty r = false) = true ∧ bypassed.elu.fifo.length < 64 ∧
    bypassed.fmc.mem.wf = true ∧ bypassed.flm.part = .bypass ∧
    ({ bypassed with elu := { bypassed.elu with holdInput := true } } : State).elu.holdInput = true := by decide +kernel
theorem test_meets_FullFifoDropsRecord :
    let entries := (List.finRange 64).map (fun e => ({ entry := e, length := 8 } : PassEntry))
    let s := { operating with elu := { operating.elu with fifo := entries } }
    recordOf (.notice 0 (carried [])) = some { kind := 0x31, target := 0, body := carried [] } ∧
      headerFaulty { kind := 0x31, target := 0, body := carried [] } = false ∧ 64 ≤ s.elu.fifo.length ∧
      s.ilu.recordOpen = true ∧ s.flm.part = .operating ∧ passesThrough s (.notice 0 (carried [])) = true := by decide +kernel

/-! ### The commands of the Stream Tracker -/

/-- A FACE OPEN for the side at 200 dpi. -/
def faceOpenRecord (side width height : Nat) : Carried :=
  carried ([byteOf side] ++ toBE 2 200 ++ toBE 2 width ++ toBE 2 height)

theorem test_meets_ItemOpenOpensItem :
    let s := crowded 31
    let raw := carried [0, 0, 0, 9, 2, 31]
    s.ilu.recordOpen = true ∧ s.flm.part = .operating ∧ (s.stk.map[3]).role = .own ∧ (s.stk.contexts[3]).state = .idle ∧ s.dru.quiesce = .running ∧
      checkOk raw = true ∧ raw.payload.length = 6 ∧ s.stk.items[31] = none ∧
      ∀ j : ItemIx, j < 31 → s.stk.items[j] ≠ none := by decide +kernel
theorem test_meets_ItemOpenOpensItem_implicitClose :
    let s := openItem []
    s.ilu.recordOpen = true ∧ s.flm.part = .operating ∧ (s.stk.map[3]).role = .own ∧ hasOpenItem s 3 0 ∧
      s.stk.items[0] ≠ none ∧ checkOk (carried [0, 0, 0, 9, 2, 31]) = true ∧
      (carried [0, 0, 0, 9, 2, 31]).payload.length = 6 ∧ s.rel.release ≠ none ∧ (releaseIdle s).rel.release = none ∧
      hasOpenItem (releaseIdle s) 3 0 := by
  refine ⟨rfl, rfl, by decide +kernel, ⟨.inl ?_, ?_⟩, ?_, ?_, rfl, ?_, rfl, ⟨.inl ?_, ?_⟩⟩ <;> decide +kernel
theorem test_meets_ItemOpenRefused :
    let s := crowded 32
    let q := quiet .quiescing
    let raw := carried [0, 0, 0, 9, 2, 31]
    s.ilu.recordOpen = true ∧ s.flm.part = .operating ∧ (s.stk.map[3]).role = .own ∧ (s.stk.contexts[3]).state = .idle ∧ checkOk raw = true ∧
      raw.payload.length = 6 ∧ (∀ j : ItemIx, s.stk.items[j] ≠ none) ∧ q.ilu.recordOpen = true ∧
      q.dru.quiesce ≠ .running := by decide +kernel
theorem test_meets_FaceOpenTakesSlot :
    let s := openItem [face .final none]
    let t := { s with fmc := { s.fmc with slots := (Vector.replicate 48 SlotState.coded).set 47 .free } }
    let raw := faceOpenRecord 1 64 32
    t.ilu.recordOpen = true ∧ t.flm.part = .operating ∧ (t.stk.map[3]).role = .own ∧ (t.stk.contexts[3]).state = .item ∧
      (t.stk.contexts[3]).item = some 0 ∧ t.stk.items[0] = some (item .opened [face .final none]) ∧ checkOk raw = true ∧ raw.payload.length = 7 ∧
      param raw.payload 0 1 = 1 ∧ [face .final none].length < 2 ∧ (∀ f ∈ [face .final none], f.side ≠ .back) ∧
      64 ≤ param raw.payload 3 2 ∧ param raw.payload 3 2 ≤ 4096 ∧ 32 ≤ param raw.payload 5 2 ∧
      t.fmc.slots[47] = .free ∧ ∀ j : Slot, j < 47 → t.fmc.slots[j] ≠ .free := by decide +kernel
theorem test_meets_FaceOpenTakesSlot_whileFilling :
    let s := filling
    let r := item .opened [face .filling (some 0)]
    let raw := faceOpenRecord 1 64 32
    s.ilu.recordOpen = true ∧ s.flm.part = .operating ∧ (s.stk.map[3]).role = .own ∧ (s.stk.contexts[3]).state = .face ∧
      (s.stk.contexts[3]).item = some 0 ∧ (s.stk.contexts[3]).face = some 0 ∧ s.stk.items[0] = some r ∧
      r.faces[0]? = some (face .filling (some 0)) ∧ s.scu[0] = some (bindContext 200 64 32 200 0) ∧ checkOk raw = true ∧
      raw.payload.length = 7 ∧ param raw.payload 0 1 ≤ 1 := by decide +kernel
theorem test_meets_FaceOpenNotFilled :
    let s := openItem [face .final none]
    let t := { s with fmc := { s.fmc with slots := Vector.replicate 48 SlotState.coded } }
    (∀ raw ∈ [faceOpenRecord 0 64 32, faceOpenRecord 1 63 32, faceOpenRecord 1 64 32],
      checkOk raw = true ∧ raw.payload.length = 7 ∧ param raw.payload 0 1 ≤ 1) ∧
      s.stk.items[0] = some (item .opened [face .final none]) ∧ (∃ f ∈ [face .final none], f.side = .front) ∧
      ¬ (2 ≤ [face .final none].length ∨ ∃ f ∈ [face .final none], f.side = .back) ∧ (63 < 64) ∧
      ¬ (64 < 64 ∨ 4096 < 64 ∨ 32 < 32) ∧ ∀ k : Slot, t.fmc.slots[k] ≠ .free := by decide +kernel
theorem test_meets_StripHandsRows :
    let s := filling
    let raw := fun n => carried (BitVec.ofNat 8 n :: List.replicate (n * 64) 0x80)
    let r := item .opened [face .filling (some 0)]
    s.ilu.recordOpen = true ∧ s.flm.part = .operating ∧ (s.stk.map[3]).role = .own ∧ (s.stk.contexts[3]).state = .face ∧
      (s.stk.contexts[3]).item = some 0 ∧ (s.stk.contexts[3]).face = some 0 ∧ s.stk.items[0] = some r ∧
      r.faces[0]? = some (face .filling (some 0)) ∧ (face .filling (some 0)).declWidth = 64 ∧
      s.scu[0] = some (bindContext 200 64 32 200 0) ∧ (∀ n, checkOk (raw n) = true) ∧
      ∀ n ∈ [1, 16], 1 ≤ n ∧ n ≤ 16 ∧ (List.replicate (n * 64) (0x80 : Byte)).length = n * 64 ∧
        (raw n).payload.length ≤ 16384 :=
  ⟨rfl, rfl, by decide +kernel, by decide +kernel, by decide +kernel, by decide +kernel, by decide +kernel, by decide +kernel, rfl,
    by decide +kernel, fun n => by simp [checkOk, carried], fun n h => by
      have b : 1 ≤ n ∧ n ≤ 16 := by revert n; decide
      exact ⟨b.1, b.2, List.length_replicate, by simp only [carried, List.length_cons, List.length_replicate]; omega⟩⟩
theorem test_meets_StripHandsRows_unsound :
    let s := filling
    let r := item .opened [face .filling (some 0)]
    s.ilu.recordOpen = true ∧ s.flm.part = .operating ∧ (s.stk.map[3]).role = .own ∧ (s.stk.contexts[3]).state = .face ∧
      (s.stk.contexts[3]).item = some 0 ∧ (s.stk.contexts[3]).face = some 0 ∧ s.stk.items[0] = some r ∧
      r.faces[0]? = some (face .filling (some 0)) ∧ s.scu[0] = some (bindContext 200 64 32 200 0) ∧
      ¬ soundStrip (carried [17]) 64 ∧ (carried [17]).payload.length ≤ 16384 := by
  refine ⟨rfl, rfl, ?_, ?_, ?_, ?_, ?_, ?_, ?_, ?_, by decide⟩
  all_goals first
    | decide +kernel
    | (rintro ⟨-, n, samples, h, -, small, -⟩
       simp only [carried, List.cons.injEq] at h
       rw [← h.1] at small
       exact absurd small (by decide))
theorem test_meets_StripHandsRows_inItem :
    let refused := { face .final none with disposition := some .refusedNoSlot }
    ∀ f ∈ [refused, face .ready (some 0)],
      let s := owning .item (some 0) (some 0) (some (item .opened [f]))
      s.ilu.recordOpen = true ∧ s.flm.part = .operating ∧ (s.stk.map[3]).role = .own ∧ (s.stk.contexts[3]).state = .item ∧
        (s.stk.contexts[3]).item = some 0 ∧ (s.stk.contexts[3]).face = some 0 ∧ s.stk.items[0] = some (item .opened [f]) ∧
        (item .opened [f]).faces[0]? = some f ∧
        ((openItem []).stk.contexts[3]).face = none := by decide +kernel
theorem test_meets_ItemCloseClosesItem :
    ∀ faces ∈ [[], [face .final none], [face .ready (some 0)]],
      let s := openItem faces
      s.ilu.recordOpen = true ∧ s.flm.part = .operating ∧ (s.stk.map[3]).role = .own ∧ (s.stk.map[3]).pending = none ∧
        (s.stk.contexts[3]).state = .item ∧ (s.stk.contexts[3]).item = some 0 ∧
        s.stk.items[0] = some (item .opened faces) ∧ (carried []).payload = [] ∧ s.rel.release ≠ none := by decide +kernel
theorem test_meets_ItemCloseClosesItem_pendingRole :
    let s := rolePending (openItem [])
    s.ilu.recordOpen = true ∧ s.flm.part = .operating ∧ (s.stk.map[3]).role = .own ∧
      (s.stk.map[3]).pending = some (.pass, 9) ∧ (s.stk.contexts[3]).state = .item ∧ (s.stk.contexts[3]).item = some 0 ∧
      s.stk.items[0] = some (item .opened []) ∧ s.rel.release ≠ none := by decide +kernel
theorem test_meets_CancelAndStallAbortItem :
    let s := openItem [face .final none]
    let r := item .opened [face .final none]
    s.ilu.recordOpen = true ∧ s.flm.part = .operating ∧ (s.stk.map[3]).role = .own ∧ (s.stk.contexts[3]).state = .item ∧
      (s.stk.contexts[3]).item = some 0 ∧ s.stk.items[0] = some r ∧ (carried []).payload = [] ∧
      (s.stk.contexts[3]).timer ≠ none ∧ (∀ f ∈ r.faces, f.state = .final ∧ f.slot = none) ∧
      s.cnv = none := by decide +kernel
theorem test_meets_CancelAndStallAbortItem_others :
    let base := rolePending (openItem [])
    let s := { base with ilu := { base.ilu with recordOpen := false }, rel := { base.rel with release := none } }
    s.ilu.recordOpen = false ∧ s.flm.part = .operating ∧ (s.stk.contexts[3]).state = .item ∧
      (s.stk.contexts[3]).item = some 0 ∧ s.stk.items[0] = some (item .opened []) ∧ (s.stk.contexts[3]).timer ≠ none ∧
      (s.stk.map[3]).pending = some (.pass, 9) ∧ s.rel.release = none ∧ s.cnv = none := by decide +kernel
theorem test_meets_CancelAndStallAbortItem_slots :
    let faces := [face .filling (some 0), face .ready (some 1), face .converting (some 2), face .final (some 3)]
    let r := item .opened faces
    let base := owning .face (some 0) (some 0) (some r)
    let fmc : Fmc := { base.fmc with ready := [1], slots := base.fmc.slots.set 3 .coded }
    let w : Work := { work with face := 2, slot := 2 }
    let s : State := { base with fmc := fmc }
    (∀ phase ∈ [Phase.rows, .lastWord, .boundary, .evaluating 0 .coded],
      let s : State := { base with fmc := fmc, cnv := some { w with phase := phase } }
      s.ilu.recordOpen = true ∧ s.flm.part = .operating ∧ (s.stk.map[3]).role = .own ∧ (s.stk.contexts[3]).state = .face ∧
        (s.stk.contexts[3]).item = some 0 ∧ s.stk.items[0] = some r ∧ (s.stk.contexts[3]).timer ≠ none ∧
        (s.stk.map[3]).pending = none ∧ s.rel.release ≠ none ∧ w.item = 0 ∧ w.abandonMark = false) ∧
      (r.faces.filterMap FaceRecord.slot).Nodup ∧ s.fmc.ready.Nodup ∧ r.faces[2]? = some (face .converting (some 2)) ∧
      s.cnv = none ∧ (∀ k ∈ s.fmc.ready, k = 1) ∧ r.faces[1]? = some (face .ready (some 1)) ∧
      QueueEntry.item 0 true ∉ s.rel.queues[r.stream] ∧ ({ w with item := 9 } : Work).item ≠ 0 := by decide +kernel
theorem test_meets_OpenFaceCompletedShort :
    let s := filling
    let r := item .opened [face .filling (some 0)]
    s.ilu.recordOpen = true ∧ s.flm.part = .operating ∧ (s.stk.map[3]).role = .own ∧ (s.stk.map[3]).pending = none ∧
      (s.stk.contexts[3]).state = .face ∧ (s.stk.contexts[3]).item = some 0 ∧ (s.stk.contexts[3]).face = some 0 ∧
      s.stk.items[0] = some r ∧ r.faces[0]? = some (face .filling (some 0)) ∧
      (face .filling (some 0)).state = .filling ∧ s.scu[0] = some (bindContext 200 64 32 200 0) ∧
      (carried []).payload = [] ∧ s.rel.release ≠ none := by decide +kernel

theorem test_meets_OpenFaceCompletedShort_pendingRole :
    let s := releaseIdle (rolePending filling)
    (s.stk.map[3]).role = .own ∧ (s.stk.map[3]).pending = some (.pass, 9) ∧ (s.stk.contexts[3]).state = .face ∧
      (s.stk.contexts[3]).face = some 0 ∧ s.stk.items[0] = some (item .opened [face .filling (some 0)]) ∧
      s.scu[0] = some (bindContext 200 64 32 200 0) ∧ s.ilu.recordOpen = true ∧ s.flm.part = .operating ∧
      (s.stk.contexts[3]).item = some 0 ∧ s.rel.release = none := by decide +kernel

/-! ### The directives -/

/-- A directive with its right check, to the part's own station, finds room in the notice queue. -/
theorem addressed (s : State) (code : Byte) (params : List Byte) (room : Nat) (hr : s.ilu.recordOpen = true)
    (ho : s.flm.part = .operating) (hs : s.sus.working.station = 30) (hn : s.dru.notices.length + room ≤ 16) :
    Addressed (directive 30 code params) code room s :=
  ⟨hr, ho, hs.symm, by simp [directive], by simp [checkOk, carriedOf, directive], hn⟩

theorem test_meets_DirectiveChecksInOrder :
    (∀ x ∈ [(Instr.directiveUnknownCode 30 { carried [0x10] with check := 0 }, 0x10),
        (.directiveUnknownCode 30 (carried [0x10]), 0x10), (.quiesce (directive 30 0x08 [1]), 0x08)],
      (recordOf x.1).any (fun r => r.kind = 0x30 ∧ r.target.toNat = operating.sus.working.station ∧
        r.body.payload.length ≤ 16384) = true) ∧
      checkOk { carried [0x10] with check := 0 } = false ∧ checkOk (carried [0x10]) = true ∧
      directiveLength 0x10 = none ∧ directiveLength 0x08 = some 1 ∧ [0x08, (1 : Byte)].length ≠ 1 ∧
      operating.sus.working.station ≤ 30 ∧ operating.dru.notices.length < 16 ∧ operating.flm.part = .operating ∧
      operating.ilu.recordOpen = true ∧ State.reset.flm.part = .starting ∧ State.reset.elu.fifo.length < 64 ∧
      State.reset.fmc.mem.wf = true := by decide +kernel
theorem test_meets_DirectiveChecksInOrder_broadcast :
    let c := Instr.restart (directive 31 0x0A [])
    let entries := (List.finRange 64).map (fun e => ({ entry := e, length := 8 } : PassEntry))
    let full := { operating with elu := { operating.elu with fifo := entries } }
    let u := nextOr operating (exec (readdressed 30 c) operating)
    (recordOf c).any (fun r => r.kind = 0x30 ∧ r.target.toNat = 31 ∧ r.body.payload.length ≤ 16384) = true ∧
      (30 : Fin 32).val = operating.sus.working.station ∧ operating.ilu.recordOpen = true ∧
      operating.flm.part = .operating ∧ operating.elu.link ≠ .between ∧ u.elu.fifo.length < 64 ∧ u.fmc.mem.wf = true ∧
      full.elu.link ≠ .between ∧ 64 ≤ (nextOr full (exec (readdressed 30 c) full)).elu.fifo.length := by decide +kernel
theorem test_meets_StatusQueryReports :
    ∀ v ∈ [(0 : Byte), 1], Addressed (directive 30 0x01 [v]) 0x01 1 operating ∧ v.toNat ≤ 1 ∧ operating.flm.latch = none :=
  fun v h => ⟨addressed _ _ _ _ rfl rfl rfl (by decide), by revert v; decide, rfl⟩
theorem test_meets_StatusQueryReports_refused :
    let full := { operating with dru := { operating.dru with notices := List.replicate 16 (linkNotice 0 1 0) } }
    Addressed (directive 30 0x01 [2]) 0x01 1 operating ∧ 1 < (2 : Byte).toNat ∧ Addressed (directive 30 0x01 [1]) 0x01 0 full ∧
      full.dru.notices.length = 16 :=
  ⟨addressed _ _ _ _ rfl rfl rfl (by decide), by decide, addressed _ _ _ _ rfl rfl rfl (by decide), rfl⟩
theorem test_meets_ProfileDirectives :
    Addressed (directive 30 0x02 (factoryPayload.drop 1)) 0x02 1 operating ∧ (factoryPayload.drop 1).length = 30 ∧
      firstBad (profileFields operating.dru (0x02 :: factoryPayload.drop 1)) = none ∧
      firstBad (profileFields operating.dru (0x02 :: 32 :: factoryPayload.drop 2)) = some 1 ∧
      Addressed (directive 30 0x03 [31]) 0x03 1 operating ∧ Addressed (directive 30 0x03 [32]) 0x03 1 operating ∧
      31 < (32 : Byte).toNat :=
  ⟨addressed _ _ _ _ rfl rfl rfl (by decide), by decide +kernel, by decide +kernel, by decide +kernel,
    addressed _ _ _ _ rfl rfl rfl (by decide), addressed _ _ _ _ rfl rfl rfl (by decide), by decide⟩

/-- The parameters of a LOAD_CODE_TABLE of slot 3 with every length 16 and value 0xFFFF, and of a LOAD_RULE of entry 31. -/
def tableParams : List Byte := 3 :: (List.replicate 212 [0x10, 0xFF, 0xFF]).flatten
def ruleParams : List Byte := [31, 1, 2, 7, 5, 0xFF, 0xFF, 0xFF, 0xFF, 255, 15, 2]

theorem test_meets_TableLoads :
    let q := quiet .quiesced
    Addressed (directive 30 0x04 tableParams) 0x04 1 q ∧ tableParams.length = 637 ∧ q.dru.quiesce = .quiesced ∧
      firstBad (codeTableFields (0x04 :: tableParams)) = none ∧
      Addressed (directive 30 0x05 (7 :: List.replicate 256 9)) 0x05 1 q ∧ (List.replicate 256 (9 : Byte)).length = 256 ∧
      Addressed (directive 30 0x06 ruleParams) 0x06 1 q ∧ ruleParams.length = 12 ∧
      firstBad (ruleFields (0x06 :: ruleParams)) = none ∧ operating.dru.quiesce ≠ .quiesced :=
  ⟨addressed _ _ _ _ rfl rfl rfl (by decide), by decide +kernel, rfl, by decide +kernel,
    addressed _ _ _ _ rfl rfl rfl (by decide), by decide +kernel, addressed _ _ _ _ rfl rfl rfl (by decide), by decide,
    by decide +kernel, by decide⟩
theorem test_meets_TableLoads_range :
    (quiet .quiesced).dru.quiesce = .quiesced ∧ firstBad (codeTableFields (0x04 :: tableParams.set 634 17)) = some 635 ∧
      firstBad (codeTableFields (0x04 :: tableParams.set 0 4)) = some 1 ∧ (8 : Byte).toNat > 7 ∧
      firstBad (ruleFields (0x06 :: ruleParams.set 9 16)) = some 10 ∧
      firstBad (ruleFields (0x06 :: ruleParams.set 11 3)) = some 12 := by decide +kernel
theorem test_meets_RoleAndFenceDirectives_range :
    Addressed (directive 30 0x0C [16]) 0x0C 1 operating ∧ Addressed (directive 30 0x07 [16, 2]) 0x07 1 operating ∧
      Addressed (directive 30 0x07 [15, 2]) 0x07 1 operating ∧ 15 < (16 : Byte).toNat ∧ 1 < (2 : Byte).toNat :=
  ⟨addressed _ _ _ _ rfl rfl rfl (by decide), addressed _ _ _ _ rfl rfl rfl (by decide),
    addressed _ _ _ _ rfl rfl rfl (by decide), by decide, by decide⟩
theorem test_meets_RoleAndFenceDirectives_spent :
    let q : List QueueEntry := [.item 4 true, .item 0 false]
    let s := { operating with rel := { operating.rel with queues := operating.rel.queues.set 3 q } }
    Addressed (directive 30 0x0C [3]) 0x0C 0 s ∧ fenceCount s.rel.queues[3] < 2 ∧
      fencesPassed (q ++ [.fence 9]) = (q ++ [.fence 9], []) ∧
      fencesPassed [.item 4 true, .fence 8, .item 5 true, .fence 9] = ([.item 4 true, .item 5 true], [8, 9]) :=
  ⟨addressed _ _ _ _ rfl rfl rfl (by decide), by decide +kernel, by decide, by decide⟩
theorem test_meets_RoleAndFenceDirectives :
    let s := openItem []
    let full := { s with rel := { s.rel with queues := s.rel.queues.set 3 [.item 0 false, .fence 1, .fence 2] } }
    let free := { s with rel := { s.rel with queues := s.rel.queues.set 3 [.item 0 true] } }
    Addressed (directive 30 0x07 [3, 1]) 0x07 2 s ∧ [byteOf 3, roleByte .own] = [3, 1] ∧
      (s.stk.contexts[3]).state = .item ∧ (s.stk.contexts[4]).state = .idle ∧
      Addressed (directive 30 0x0C [3]) 0x0C 2 s ∧ s.rel.release ≠ none ∧ 2 ≤ fenceCount full.rel.queues[3] ∧
      fenceCount s.rel.queues[3] < 2 ∧ s.rel.queues[3].head? = some (.item 0 false) ∧
      (∀ e ∈ free.rel.queues[3], e = .item 0 true) ∧ (∀ e ∈ s.rel.queues[4], e = .item 0 true) :=
  ⟨addressed _ _ _ _ rfl rfl rfl (by decide), by decide, by decide +kernel, by decide +kernel,
    addressed _ _ _ _ rfl rfl rfl (by decide), by decide +kernel, by decide +kernel, by decide +kernel, by decide +kernel,
    by decide +kernel, by decide +kernel⟩
theorem test_meets_QuiesceAndResume :
    Addressed (directive 30 0x08 []) 0x08 2 operating ∧ operating.dru.quiesce = .running ∧
      (∀ ix : ItemIx, operating.stk.items[ix] = none) ∧ (quiet .quiesced).dru.quiesce = .quiesced ∧
      (openItem []).dru.quiesce = .running ∧ (openItem []).stk.items[0] ≠ none ∧
      ({ fullQueues.dru with owed := [1, 2, 3] } : Dru).owed.length < 4 ∧ fullQueues.dru.quiesce = .quiescing ∧
      4 ≤ fullQueues.dru.owed.length ∧ Addressed (directive 30 0x09 []) 0x09 (1 + operating.dru.owed.length) operating :=
  ⟨addressed _ _ _ _ rfl rfl rfl (by decide), by decide, by decide +kernel, by decide, by decide, by decide +kernel, by decide,
    by decide +kernel, by decide +kernel, addressed _ _ _ _ rfl rfl rfl (by decide)⟩
theorem test_meets_RestartDropsAllWork :
    Addressed (directive 30 0x0A []) 0x0A 1 filling ∧ (∀ st : Stream, (filling.stk.map[st]).pending = none) ∧
      filling.dru.notices.length + 1 + filling.dru.owed.length ≤ 16 ∧
      filling.sus.working.mark + 4 ≤ filling.fmc.slots.count .free ∧ (crammed 8).fmc.slots.count .free = 8 ∧
      (crammed 8).sus.working.mark = 8 ∧ Addressed (directive 30 0x0A []) 0x0A 1 (crammed 8) :=
  ⟨addressed _ _ _ _ rfl rfl rfl (by decide), by decide +kernel, by decide, by decide +kernel, by decide +kernel, rfl,
    addressed _ _ _ _ rfl rfl rfl (by decide)⟩
theorem test_meets_RestartDropsAllWork_parity :
    (filling.flm.part = .operating ∧ filling.flm.latch = none ∧ filling.elu.link ≠ .between) ∧
      readsBadParity filling (.itemCancel 3 (carried []) (some .record)) ∧
      readsBadParity filling (.setStreamRole { directive 30 0x07 [15, 1] with parity := some .context }) ∧
      readsBadParity (converting { work with phase := .lastWord }) (.attemptFit (some .converter)) ∧
      reachesTracker filling 3 (carried []) 0 ∧ hasOpenItem filling 3 0 ∧ filling.stk.items[0] ≠ none ∧
      (filling.stk.map[3]).pending = none := by
  have reaches : reachesTracker filling 3 (carried []) 0 := by
    unfold reachesTracker
    decide +kernel
  have opened : hasOpenItem filling 3 0 := by
    unfold hasOpenItem
    decide +kernel
  refine ⟨⟨rfl, rfl, by decide +kernel⟩, ⟨reaches, 0, opened⟩, ⟨rfl, addressed _ _ _ _ rfl rfl rfl (by decide), 15, .own, rfl⟩,
    ⟨_, rfl, rfl⟩, reaches, opened, by decide +kernel, by decide +kernel⟩
theorem test_meets_PacingAndMarkDirectives :
    (∀ x ∈ [(0, 4), (7, 24)], Addressed (directive 30 0x0B [byteOf x.1, byteOf x.2]) 0x0B 1 operating ∧ x.1 ≤ 7 ∧ 4 ≤ x.2 ∧
      x.2 ≤ 24) ∧ Addressed (directive 30 0x0D []) 0x0D 1 operating :=
  ⟨fun x h => ⟨addressed _ _ _ _ rfl rfl rfl (by decide), by revert x; decide⟩, addressed _ _ _ _ rfl rfl rfl (by decide)⟩
theorem test_meets_PacingAndMarkDirectives_range :
    (∀ p ∈ [[(8 : Byte), 4], [7, 3], [0, 25]], Addressed (directive 30 0x0B p) 0x0B 1 operating) ∧ 7 < (8 : Byte).toNat ∧
      (3 : Byte).toNat < 4 ∧ 24 < (25 : Byte).toNat :=
  ⟨fun _ _ => addressed _ _ _ _ rfl rfl rfl (by decide), by decide, by decide, by decide⟩
theorem test_meets_StoreWriteCommands :
    let c : Settings := { station := 30, mask := 0xFFFF, mark := 24, linkNotices := true }
    let s := { operating with sus := { operating.sus with write := .erasing c 9 } }
    let t := { operating with sus := { operating.sus with write := .programming c 9 } }
    Addressed (directive 30 0x0E [30, 0xFF, 0xFF, 24, 1]) 0x0E 1 operating ∧
      firstBad (settingsFields [0x0E, 30, 0xFF, 0xFF, 24, 1]) = none ∧ operating.sus.write = .idle ∧
      firstBad (settingsFields [0x0E, 31, 0xFF, 0xFF, 24, 1]) = some 1 ∧ firstBad (settingsFields [0x0E, 30, 0, 0, 25, 1]) = some 4 ∧
      s.sus.write ≠ .idle ∧ s.sus.write = .erasing c 9 ∧ t.sus.write = .programming c 9 ∧ c.station ≤ 30 ∧ 4 ≤ c.mark ∧
      c.mark ≤ 24 ∧ Addressed (directive 30 0x0F []) 0x0F 1 operating :=
  ⟨addressed _ _ _ _ rfl rfl rfl (by decide), by decide +kernel, rfl, by decide +kernel, by decide +kernel, by decide +kernel, rfl, rfl, by decide,
    by decide, by decide, addressed _ _ _ _ rfl rfl rfl (by decide)⟩

/-! ### The steps of the pipeline -/

/-- The scaling context of `filling` with rows waiting, in the given output row and column sums. -/
def scaling (step lineRow rowsTaken : Nat) (last : Option (List Byte)) : ScaleCtx :=
  { bindContext 200 64 32 200 0 with
    step := step, lineRow := lineRow, rowsTaken := rowsTaken, waiting := if last.isSome then [] else [.white],
    lastRow := last, inputEnded := last.isSome }

/-- `filling` with that context. -/
def scalingState (c : ScaleCtx) : State := { filling with scu := filling.scu.set 0 (some c) }

theorem test_meets_InputRowScaled :
    (∀ c ∈ [scaling 256 32 31 none, scaling 512 0 0 none, scaling 256 30 30 none, scaling 256 31 31 none],
      (scalingState c).scu[0] = some c ∧ c.waiting = [.white] ∧ (scalingState c).fmc.slots[0] = .filling ∧
        (scalingState c).fmc.mem.wf = true) ∧
      32 ≤ (scaling 256 32 31 none).lineRow ∧ 256 * (0 + 1) < (0 + 1) * 512 ∧ (30 + 1 < 32 ∧ (30 + 1) * 256 ≤ 256 * (30 + 1)) ∧
      (31 + 1 = (scaling 256 31 31 none).outHeight ∧ (31 + 1) * 256 ≤ 256 * (31 + 1)) := by decide +kernel
theorem test_meets_LastRowMakesFaceReady :
    let c := scaling 256 32 32 (some (List.replicate 64 200))
    let s := scalingState c
    let r := item .opened [face .filling (some 0)]
    s.scu[0] = some c ∧ c.lastRow = some (List.replicate 64 200) ∧ c.inputEnded = true ∧ c.waiting = [] ∧
      s.fmc.slots[0] = .filling ∧ s.fmc.mem.wf = true ∧ faceHolding s 0 = some (0, 0) ∧ s.stk.items[0] = some r ∧
      r.faces[0]? = some (face .filling (some 0)) ∧ s.cnv = none ∧ s.fmc.ready = [] ∧
      ({ s with cnv := some work } : State).cnv ≠ none := by decide +kernel
theorem test_meets_LastRowMakesFaceReady_taking :
    let s := faceWaits operating
    let r := item .closed [face .ready (some 40)]
    s.cnv = none ∧ s.fmc.ready = 40 :: [] ∧ holdsAlone s 40 9 0 r (face .ready (some 40)) ∧ s.flm.part = .operating ∧
      s.flm.latch = none ∧ s.elu.link ≠ .between ∧ operating.fmc.ready = [] := by
  refine ⟨rfl, rfl, ⟨by decide +kernel, rfl, rfl, ?_⟩, rfl, rfl, by decide +kernel, rfl⟩
  intro jx p m g hp hg _
  have alone : ∀ jx : ItemIx, jx ≠ 9 → (faceWaits operating).stk.items[jx] = none := by decide +kernel
  by_cases h : jx = 9
  · subst h
    have known : (faceWaits operating).stk.items[(9 : ItemIx)] = some (item .closed [face .ready (some 40)]) := by decide +kernel
    rw [known] at hp
    cases hp
    match m, hg with
    | 0, _ => exact ⟨rfl, rfl⟩
  · rw [alone jx h] at hp
    cases hp
theorem test_meets_LastRowMakesFaceReady_queue :
    let c := scaling 256 32 32 (some (List.replicate 64 200))
    let s := faceWaits (scalingState c)
    s.scu[0] = some c ∧ c.lastRow = some (List.replicate 64 200) ∧ c.inputEnded = true ∧ c.waiting = [] ∧
      s.fmc.slots[0] = .filling ∧ s.fmc.mem.wf = true ∧ faceHolding s 0 = some (0, 0) ∧
      s.stk.items[0] = some (item .opened [face .filling (some 0)]) ∧ s.cnv = none ∧ s.fmc.ready = [40] := by decide +kernel
theorem test_meets_GreyRowConverted :
    let full := { work with nextRow := 1, window := [List.replicate 64 true], limit := 0 }
    let last := { work with nextRow := 31, abandonMark := true }
    let final := { full with attempt := 2 }
    let marked := { full with abandonMark := true }
    (∀ w ∈ [work, { work with phase := .boundary }, full, last, final, marked], let s := converting w
      s.cnv = some w ∧ (w.phase = .rows ∨ w.phase = .boundary) ∧ s.fmc.slots[w.slot] = .converting ∧ w.nextRow < w.height ∧
        s.fmc.mem.wf = true ∧ s.fmc.tally.toNat + 1 < 16 ∧
        8 * w.coder.wordsWritten + (rowEnds w [.uncorrectable]).run.words.flatten.length ≤ 131072 ∧ s.fmc.ready = [] ∧
        s.rel.release ≠ none ∧ s.stk.items[w.item] = some (item .opened [face .converting (some 0)])) ∧
      (wordsFound (converting work).fmc.mem (greyBase 0 / 8) 8 [.uncorrectable]).count .uncorrectable = 1 ∧
      (rowEnds work []).run.stopped = false ∧ ((rowEnds last []).run.stopped = false ∧ last.nextRow + 1 = last.height) ∧
      ((rowEnds full [.uncorrectable]).run.stopped = true ∧ full.attempt + 1 < full.params.maxAttempts) ∧
      ((rowEnds final []).run.stopped = true ∧ final.params.maxAttempts ≤ final.attempt + 1) ∧
      ((rowEnds marked []).run.stopped = true ∧ marked.abandonMark = true) := by decide +kernel
theorem test_meets_GreyRowConverted_limit :
    let s := { converting work with fmc := { (converting work).fmc with tally := 15 } }
    let reads := ReadResult.uncorrectable :: List.replicate 7 .clean
    s.fmc.tally.toNat < 16 ∧ 16 ≤ s.fmc.tally.toNat + (wordsFound s.fmc.mem (greyBase 0 / 8) 8 reads).count .uncorrectable ∧
      reads.length = (work.width + 7) / 8 ∧ s.flm.part = .operating ∧ s.flm.latch = none ∧ s.elu.link ≠ .between := by
  decide +kernel
theorem test_meets_GreyRowConverted_released :
    let w := { work with abandonMark := true }
    let s := released0 (converting w)
    s.cnv = some w ∧ (rowEnds w []).run.stopped = false ∧ ¬ w.nextRow + 1 = w.height ∧
      QueueEntry.item 0 true ∈ s.rel.queues[(3 : Stream)] ∧ s.flm.part ≠ .bypass ∧ operating.cnv = none ∧
      operating.fmc.tally.toNat + [ReadResult.uncorrectable].count .uncorrectable < 16 ∧
      bypassed.cnv = none ∧ bypassed.flm.latch ≠ none := by decide +kernel
theorem test_meets_AttemptFitMeasured :
    let w := { work with phase := .lastWord, coder := { Coder.fresh with bitCount := 88, hand := List.replicate 24 true, wordsWritten := 1 } }
    let s := converting w
    let r := item .opened [face .converting (some 0)]
    s.cnv = some w ∧ w.phase = .lastWord ∧ w.abandonMark = false ∧ s.fmc.slots[w.slot] = .converting ∧
      s.stk.items[w.item] = some r ∧ r.faces[w.face]? = some (face .converting (some 0)) ∧ s.fmc.mem.wf = true ∧
      8 * w.coder.wordsWritten + 8 ≤ 131072 ∧ w.coder.hand.length ≤ 64 ∧ s.fmc.ready = [] ∧
      QueueEntry.item w.item true ∉ s.rel.queues[r.stream] ∧ ({ w with abandonMark := true } : Work).abandonMark = true ∧
      ({ w.coder with hand := [], wordsWritten := 16384 } : Coder).hand = [] := by
  decide +kernel
theorem test_meets_EvaluationSettlesFace :
    let w := { work with phase := .evaluating flagUndersize .coded }
    let s := converting w
    let r := item .opened [face .converting (some 0)]
    s.cnv = some w ∧ w.phase = .evaluating flagUndersize .coded ∧ s.stk.items[w.item] = some r ∧
      r.faces[w.face]? = some (face .converting (some 0)) ∧ s.fmc.ready = [] ∧ s.rel.release ≠ none := by
  decide +kernel
theorem test_meets_EvaluationSettlesFace_idle :
    let w := { work with phase := .evaluating flagUndersize .codedOver }
    let s := faceWaits (releaseIdle (converting w))
    s.cnv = some w ∧ w.phase = .evaluating flagUndersize .codedOver ∧
      s.stk.items[w.item] = some (item .opened [face .converting (some 0)]) ∧ s.fmc.ready = [40] ∧ s.rel.release = none ∧
      (nextOr s (exec (.evaluationEnd none) s)).fmc.ready = [] := by decide +kernel
theorem test_meets_SegmentComposed :
    let f := { face .final (some 0) with codedBytes := 20000, disposition := some .coded }
    let r := item .releasing [f]
    let x : Release := { item := 0, current := .segment 0 1, offered := none, rest := [.result] }
    let s := owning .idle none none (some r)
    let t := { s with rel := { s.rel with release := some x }, fmc := { s.fmc with slots := s.fmc.slots.set 0 .coded } }
    t.rel.release = some x ∧ x.current = .segment 0 1 ∧ x.offered = none ∧ t.stk.items[x.item] = some r ∧
      r.faces[0]? = some f ∧ f.slot = some 0 ∧ t.fmc.slots[0] = .coded ∧
      t.fmc.tally.toNat + (wordsFound t.fmc.mem ((codedBase 0 + 16376) / 8) 453 [.uncorrectable]).count .uncorrectable < 16 := by
  decide +kernel
theorem test_meets_SegmentComposed_choice :
    let deferring := { item .closed [] with profile := { Profile.factory with d := 1 } }
    let decided := { item .decided [] with outcome := some .accepted }
    let base := owning .idle none none (some deferring)
    let stk := { base.stk with items := base.stk.items.set 1 (some decided) }
    let s : State := { base with
      stk := stk, rel := { base.rel with queues := base.rel.queues.set 3 [.item 0 false, .item 1 false], release := none } }
    s.rel.release = none ∧ s.flm.part = .operating ∧ s.rel.position + 1 + 2 = 3 ∧
      releasableFrom s [] s.rel.queues[s.rel.position + 1 + (2 : Fin 16)] = some (1, [0]) ∧
      (∀ sooner : Fin 16, sooner < 2 → releasableFrom s [] s.rel.queues[s.rel.position + 1 + sooner] = none) ∧
      s.stk.items[1] = some decided ∧ [(1 : ItemIx), 0].Nodup ∧ s.stk.items[0] = some deferring := by decide +kernel

/-! ### The egress link and face memory -/

theorem test_meets_EgressServesInTurn :
    let n : Notice := { kind := .ready, status := .done, subject := 0, tag := 0, fields := [0, 30] }
    let fifo : List PassEntry := [{ entry := 0, length := 8 }, { entry := 1, length := 8 }]
    let s := { operating with
      elu := { operating.elu with link := .sending .passThrough [1], fifo := fifo, position := .passThrough }
      dru := { operating.dru with notices := [n] } }
    let x : Release := { item := 0, current := .head 0, offered := some (fillRecord []), rest := [.result] }
    let u := { operating with elu := { operating.elu with position := .notices }, rel := { operating.rel with release := some x } }
    let v := { operating with elu := { operating.elu with holdInput := true } }
    let b := { bypassed with elu := { bypassed.elu with link := .sending .passThrough [1], fifo := fifo.take 1 } }
    (s.elu.link = .sending .passThrough [1] ∧ s.elu.holdInput = false ∧ s.dru.notices = n :: [] ∧
        s.elu.position = .passThrough ∧ s.elu.fifo.tail = { entry := 1, length := 8 } :: []) ∧
      (u.elu.link = State.reset.elu.link ∧ u.elu.position = .notices ∧ u.rel.release = some x ∧
        x.offered = some (fillRecord []) ∧ x.current ≠ .result ∧ x.rest = .result :: []) ∧
      (operating.elu.fifo = [] ∧ operating.dru.notices = [] ∧ operating.rel.release.bind Release.offered = none ∧
        operating.elu.position = .release ∧ v.elu.holdInput = true) ∧
      (b.flm.part = .bypass ∧ b.dru.notices = [] ∧ b.elu.fifo.tail = []) := by decide +kernel
theorem test_meets_EgressServesInTurn_bypass :
    let n : Notice := { kind := .fault, status := .done, subject := 0, tag := 0, fields := [2] }
    let dru := { bypassed.dru with notices := [n] }
    let b := { bypassed with dru := dru, elu := { bypassed.elu with link := .sending .fill [1] } }
    let e : PassEntry := { entry := 63, length := 8 }
    let c := { bypassed with elu := { bypassed.elu with link := .sending .fill [1], fifo := [e] } }
    let between := { bypassed with dru := dru }
    let queue := { bypassed with elu := { bypassed.elu with fifo := [e] } }
    (b.flm.part = .bypass ∧ b.elu.link = .sending .fill [1] ∧ b.elu.holdInput = false ∧ b.dru.notices = [n]) ∧
      (c.flm.part = .bypass ∧ c.elu.link = .sending .fill [1] ∧ c.dru.notices = [] ∧ c.elu.fifo = [e]) ∧
      (between.flm.part = .bypass ∧ between.elu.link = .between ∧ between.dru.notices = [n]) ∧
      (queue.elu.link = .between ∧ queue.dru.notices = [] ∧ queue.elu.fifo = [e]) ∧
      (bypassed.elu.link = .between ∧ bypassed.dru.notices = [] ∧ bypassed.elu.fifo = []) := by decide +kernel
theorem test_meets_EgressServesInTurn_result :
    let kept := { face .final (some 0) with disposition := some .coded }
    let r := { item .releasing [kept] with outcome := some .accepted }
    let x : Release := { item := 0, current := .result, offered := some (resultRecord r), rest := [] }
    let base := owning .idle none none (some r)
    let rel := { base.rel with queues := base.rel.queues.set 3 [.item 9 true, .item 0 false, .fence 4, .fence 5], release := some x }
    let s := { base with
      rel := rel, elu := { base.elu with position := .notices }, fmc := { base.fmc with slots := base.fmc.slots.set 0 .coded } }
    s.elu.link = State.reset.elu.link ∧ s.flm.part = .operating ∧ s.elu.holdInput = false ∧ s.elu.position = .notices ∧
      s.rel.release = some x ∧ x.offered = some (resultRecord r) ∧ x.current = .result ∧ s.stk.items[0] = some r ∧
      QueueEntry.item 0 false ∈ s.rel.queues[r.stream] ∧ s.flm.latch = none ∧ s.elu.link ≠ .between := by decide +kernel
theorem test_meets_ScrubAndVerify :
    let last := { State.reset with fmc := { State.reset.fmc with scrubOrder := [47] } }
    let passed := { State.reset with fmc := { State.reset.fmc with scrubOrder := [], verify := some true } }
    let failed := { State.reset with fmc := { State.reset.fmc with scrubOrder := [], verify := some false } }
    State.reset.flm.part ≠ .held ∧ State.reset.fmc.scrubOrder = 0 :: (List.finRange 48).tail ∧ last.fmc.scrubOrder = 47 :: [] ∧
      passed.flm.part = .starting ∧ passed.fmc.verify = some true ∧ failed.fmc.verify = some false ∧ failed.flm.latch = none ∧
      failed.elu.link ≠ .between := by decide +kernel
theorem test_meets_MemoryReadsCounted :
    let verifying := { State.reset with fmc := { State.reset.fmc with scrubOrder := [], verify := some true } }
    let limit := { verifying with fmc := { verifying.fmc with tally := 15 } }
    let sending := { operating with
      elu := { operating.elu with link := .sending .passThrough (List.replicate 9 1), fifo := [{ entry := 0, length := 9 }] } }
    20447231 < 20447232 ∧ verifying.fmc.verify = some true ∧ verifying.fmc.tally.toNat ≠ 15 ∧
      (∀ x ∈ [ReadResult.clean, .corrected, .uncorrectable], verifying.fmc.mem.readResult 20447231 x = x) ∧
      limit.fmc.verify = some true ∧ limit.fmc.tally.toNat = 15 ∧ limit.flm.part = .starting ∧ limit.flm.latch = none ∧
      limit.elu.link ≠ .between ∧ sending.elu.fifo = { entry := 0, length := 9 } :: [] ∧
      (List.replicate 9 (1 : Byte)).length ≤ 8 * 2 ∧ 8 * 1 < (List.replicate 9 (1 : Byte)).length ∧
      (∀ x ∈ [ReadResult.clean, .corrected, .uncorrectable],
        sending.fmc.mem.readResult (passEntryBase 0 / 8 + 1) x = x) ∧
      ({ sending.fmc with tally := 15 } : Fmc).tally.toNat = 15 ∧ sending.flm.latch = none ∧ sending.flm.part = .operating ∧
      bypassed.flm.latch ≠ none := by decide +kernel
theorem test_meets_PinResetStartsAnew :
    let writing := { operating with sus := { operating.sus with write := .erasing Settings.blank 1 } }
    operating.flm.part ≠ .held ∧ operating.sus.write = .idle ∧ writing.flm.part ≠ .held ∧ held.flm.part = .held := by
  decide +kernel

end Sys2Proof.Tests
end

section
/-! The threshold and the background line of bitonal conversion (R86, R87): what each function answers, and the two statements. -/

namespace Sys2Proof.Proofs
open Sys2Proof.Machine

/-- The clamp of R86 as a maximum and a minimum. -/
theorem threshold_eq_clamp {tmin tmax : Nat} (h : tmin ≤ tmax) (k bg : Nat) :
    threshold k tmin tmax bg = max tmin (min tmax (bg * k / 4096)) := by
  simp only [threshold]
  split
  case isTrue below => omega
  case isFalse notBelow =>
    split
    case isTrue above => omega
    case isFalse notAbove => omega

theorem le_threshold {tmin tmax : Nat} (h : tmin ≤ tmax) (k bg : Nat) : tmin ≤ threshold k tmin tmax bg :=
  threshold_eq_clamp h k bg ▸ le_max_left _ _

theorem threshold_le {tmin tmax : Nat} (h : tmin ≤ tmax) (k bg : Nat) : threshold k tmin tmax bg ≤ tmax :=
  threshold_eq_clamp h k bg ▸ max_le h (min_le_left _ _)

/-- The raw threshold is largest at full white paper and ratio 255, where it is 254. -/
theorem rawThreshold_le {k bg : Nat} (hk : k ≤ 255) (hbg : bg ≤ 4080) : bg * k / 4096 ≤ 254 :=
  calc bg * k / 4096 ≤ 4080 * 255 / 4096 := Nat.div_le_div_right (Nat.mul_le_mul hbg hk)
    _ = 254 := by norm_num

/-- A grey value not below Tmax is white, whatever the background. -/
theorem isBlack_eq_false {k tmin tmax bg : Nat} {g : Byte} (h : tmin ≤ tmax) (hg : tmax ≤ g.toNat) :
    isBlack k tmin tmax bg g = false :=
  decide_eq_false ((threshold_le h k bg).trans hg).not_gt

theorem getElem?_thresholdRow {bg : List Nat} {row : List Byte} {c : Nat} (hb : c < bg.length) (hr : c < row.length)
    (k tmin tmax : Nat) : (thresholdRow k tmin tmax bg row)[c]? = some (isBlack k tmin tmax bg[c] row[c]) := by
  simp [thresholdRow, hb, hr]

theorem getElem?_nextBackgroundLine {bg : List Nat} {row : List Byte} {c : Nat} (hb : c < bg.length) (hr : c < row.length)
    (G : Nat) : (nextBackgroundLine G bg row)[c]? = some (nextBackground G bg[c] row[c]) := by
  simp [nextBackgroundLine, hb, hr]

/-- A grey value at or above the background raises it. -/
theorem nextBackground_of_lighter {bg : Nat} {g : Byte} (h : bg ≤ 16 * g.toNat) (G : Nat) :
    nextBackground G bg g = bg + (16 * g.toNat - bg) / 8 := by
  rw [nextBackground, if_pos (by omega), if_pos h]

/-- A grey value below the background by up to the guard lowers it. -/
theorem nextBackground_of_paper {G bg : Nat} {g : Byte} (darker : 16 * g.toNat < bg)
    (h : bg ≤ 16 * g.toNat + 16 * G) : nextBackground G bg g = bg - (bg - 16 * g.toNat) / 8 := by
  rw [nextBackground, if_pos h, if_neg (by omega)]

/-- A grey value below the background by more than the guard is ink and leaves it. -/
theorem nextBackground_of_ink {G bg : Nat} {g : Byte} (h : 16 * g.toNat + 16 * G < bg) :
    nextBackground G bg g = bg := by
  rw [nextBackground, if_neg (by omega)]

/-- R87's truncated eighth of a distance upwards, in the natural numbers of the model. -/
theorem tdiv_eight_sub_of_le {a b : Nat} (h : a ≤ b) : Int.tdiv ((b : Int) - a) 8 = ((b - a) / 8 : Nat) := by
  rw [Int.tdiv_eq_ediv_of_nonneg (by omega)]
  omega

/-- The same downwards: truncation rounds a negative difference up, so that it is minus the eighth of its size. -/
theorem tdiv_eight_sub_of_ge {a b : Nat} (h : b ≤ a) : Int.tdiv ((b : Int) - a) 8 = -((a - b) / 8 : Nat) := by
  rw [← neg_sub, Int.neg_tdiv, tdiv_eight_sub_of_le h]

/-- The three cases of R87 are its one equation over the integers, with the division rounded toward zero. -/
theorem nextBackground_eq_tdiv (G bg : Nat) (g : Byte) :
    (nextBackground G bg g : Int) =
      if (bg : Int) - 16 * G ≤ 16 * g.toNat then bg + Int.tdiv (16 * g.toNat - bg) 8 else bg := by
  rcases le_or_gt bg (16 * g.toNat) with lighter | darker
  · have step := tdiv_eight_sub_of_le lighter
    push_cast at step
    rw [nextBackground_of_lighter lighter, if_pos (by omega), step]
    omega
  · rcases le_or_gt bg (16 * g.toNat + 16 * G) with paper | ink
    · have step := tdiv_eight_sub_of_ge darker.le
      push_cast at step
      rw [nextBackground_of_paper darker paper, if_pos (by omega), step]
      omega
    · rw [nextBackground_of_ink ink, if_neg (by omega)]

/-- The update never passes 16 times the grey value: it ends between that and the old value. -/
theorem nextBackground_between (G bg : Nat) (g : Byte) :
    min bg (16 * g.toNat) ≤ nextBackground G bg g ∧ nextBackground G bg g ≤ max bg (16 * g.toNat) := by
  rcases le_or_gt bg (16 * g.toNat) with lighter | darker
  · rw [nextBackground_of_lighter lighter]
    omega
  · rcases le_or_gt bg (16 * g.toNat + 16 * G) with paper | ink
    · rw [nextBackground_of_paper darker paper]
      omega
    · rw [nextBackground_of_ink ink]
      omega

/-- Full white is kept as the upper bound of the background. -/
theorem nextBackground_le {bg : Nat} (h : bg ≤ 4080) (G : Nat) (g : Byte) : nextBackground G bg g ≤ 4080 := by
  have upper := (nextBackground_between G bg g).2
  have grey := g.isLt
  omega

/-- Settles O19: the clamp, its bounds and the comparison, column by column; a grey of 255 and a Tmax of 0 are the two
cases of a grey value not below Tmax. -/
theorem thresholdClampedAndCompared : Obligations.ThresholdClampedAndCompared := by
  intro k tmin tmax bg row c hb hr hk hmin hmax hbg T
  rw [getElem?_thresholdRow hb hr]
  refine ⟨threshold_eq_clamp hmin _ _, rawThreshold_le hk hbg, le_threshold hmin _ _, threshold_le hmin _ _, rfl, ?_, ?_⟩
  · intro white
    exact congrArg some (isBlack_eq_false hmin (white ▸ hmax))
  · intro noBlack
    exact congrArg some (isBlack_eq_false hmin (noBlack ▸ Nat.zero_le _))

/-- Settles O20: each column's new value is `nextBackground` of its old value and its grey value. -/
theorem backgroundFollowsPaper : Obligations.BackgroundFollowsPaper := by
  intro G bg row c hb hr hbg old g
  obtain ⟨lower, upper⟩ := nextBackground_between G bg[c] row[c]
  exact ⟨_, getElem?_nextBackgroundLine hb hr G, nextBackground_eq_tdiv G _ _, lower, upper, nextBackground_le hbg G _⟩

end Sys2Proof.Proofs
end

section
/-! The sum check over the three code sets of a table (R103). -/

namespace Sys2Proof.Proofs
open Sys2Proof.Machine

/-- A table laid out control, white, black as R100 orders it is checked set by set. -/
theorem sumCheck_append {control white black : List CodeEntry} (hc : control.length = 4) (hw : white.length = 104)
    (hb : black.length = 104) :
    sumCheck (control ++ white ++ black) = true ↔
      setSum control ≤ 65536 ∧ setSum white ≤ 65536 ∧ setSum black ≤ 65536 := by
  have takeControl : (control ++ white ++ black).take 4 = control := by
    rw [List.append_assoc, List.take_left' hc]
  have takeWhite : ((control ++ white ++ black).drop 4).take 104 = white := by
    rw [List.append_assoc, List.drop_left' hc, List.take_left' hw]
  have takeBlack : ((control ++ white ++ black).drop 108).take 104 = black := by
    rw [List.drop_left' (by simp [hc, hw]), List.take_of_length_le hb.le]
  simp only [sumCheck, takeControl, takeWhite, takeBlack, Bool.and_eq_true, decide_eq_true_eq, and_assoc]

/-- A set of equally long codes sums to one share per code. -/
theorem setSum_of_forall_length {es : List CodeEntry} {l : Nat} (h : ∀ e ∈ es, e.length = l) :
    setSum es = es.length * 2 ^ (16 - l) := by
  have shares : ∀ x ∈ es.map (fun e => 2 ^ (16 - e.length)), x = 2 ^ (16 - l) := by
    intro x hx
    obtain ⟨e, he, rfl⟩ := List.mem_map.mp hx
    rw [h e he]
  simpa [setSum] using List.sum_eq_card_nsmul _ _ shares

/-- Slot 0's control codes are four of length 2 (R101). -/
theorem setSum_fixedControl : setSum (fixedEntries.take 4) = 65536 := by
  have lengths : ∀ e ∈ fixedEntries.take 4, e.length = 2 := by decide
  calc setSum (fixedEntries.take 4) = (fixedEntries.take 4).length * 2 ^ (16 - 2) := setSum_of_forall_length lengths
    _ = 65536 := by decide

/-- Slot 0's white codes are 104 of length 7 (R101). -/
theorem setSum_fixedWhite : setSum ((fixedEntries.drop 4).take 104) = 53248 := by
  have lengths : ∀ e ∈ (fixedEntries.drop 4).take 104, e.length = 7 := by decide
  calc setSum ((fixedEntries.drop 4).take 104)
    _ = ((fixedEntries.drop 4).take 104).length * 2 ^ (16 - 7) := setSum_of_forall_length lengths
    _ = 53248 := by decide

/-- Slot 0's black codes are its white codes again (R101). -/
theorem fixedBlack_eq_fixedWhite : fixedEntries.drop 108 = (fixedEntries.drop 4).take 104 := by decide

/-- Settles O24: the three sets are checked apart, and slot 0's codes of one length each give its sums. -/
theorem sumCheckPerSet : Obligations.SumCheckPerSet :=
  ⟨fun _ _ _ hc hw hb => sumCheck_append hc hw hb, setSum_fixedControl, setSum_fixedWhite,
    fixedBlack_eq_fixedWhite ▸ setSum_fixedWhite⟩

end Sys2Proof.Proofs
end

section
/-! The bits that two words have in common, and the flag words and masks read through them (R20, R137). -/

namespace Sys2Proof.Proofs
open Sys2Proof.Machine

/-- Two words meet exactly when they have a bit in common. -/
theorem and_ne_zero_iff_exists_bit {w : Nat} (x y : BitVec w) :
    x &&& y ≠ 0#w ↔ ∃ i < w, x.getLsbD i = true ∧ y.getLsbD i = true := by
  constructor
  · intro meet
    by_contra none
    refine meet (BitVec.eq_of_getLsbD_eq fun i hi => ?_)
    have apart : ¬ (x.getLsbD i = true ∧ y.getLsbD i = true) := fun both => none ⟨i, hi, both⟩
    simpa using apart
  · rintro ⟨i, -, hx, hy⟩ zero
    have common : (x &&& y).getLsbD i = true := by simp [hx, hy]
    simp [zero] at common

/-- A mask of one bit reads that bit. -/
theorem and_twoPow_ne_zero_iff {w i : Nat} (hi : i < w) (x : BitVec w) :
    x &&& BitVec.twoPow w i ≠ 0#w ↔ x.getLsbD i = true := by
  rw [and_ne_zero_iff_exists_bit]
  constructor
  · rintro ⟨j, -, hx, hj⟩
    obtain rfl : i = j := by simp_all
    exact hx
  · exact fun hx => ⟨i, hi, hx, by simp [hi]⟩

theorem anyFlag_iff_exists_bit (w mask : BitVec 32) :
    anyFlag w mask = true ↔ ∃ i < 32, w.getLsbD i = true ∧ mask.getLsbD i = true := by
  rw [← and_ne_zero_iff_exists_bit]
  simp [anyFlag]

theorem anyFlag_or (w m n : BitVec 32) : anyFlag w (m ||| n) = (anyFlag w m || anyFlag w n) := by
  rw [Bool.eq_iff_iff]
  simp [anyFlag, BitVec.and_or_distrib_left, imp_iff_not_or]

theorem anyFlag_twoPow {i : Nat} (hi : i < 32) (w : BitVec 32) : anyFlag w (BitVec.twoPow 32 i) = w.getLsbD i := by
  rw [Bool.eq_iff_iff, ← and_twoPow_ne_zero_iff hi]
  simp [anyFlag]

theorem anyFlag_flagSuspect (w : BitVec 32) : anyFlag w flagSuspect = w.getLsbD 25 :=
  anyFlag_twoPow (i := 25) (by decide) w

theorem anyFlag_flagOverCeiling (w : BitVec 32) : anyFlag w flagOverCeiling = w.getLsbD 23 :=
  anyFlag_twoPow (i := 23) (by decide) w

/-- Q0 to Q15 stand at bits 0 to 15 (R137). -/
theorem flagQ_eq_ofNat (n : Fin 16) : flagQ n = BitVec.ofNat 32 (2 ^ n.val) := by
  revert n
  decide

/-- SHORT to SUSPECT stand at bits 16 to 25 (R137). -/
theorem fixedFlags_eq_ofNat :
    [flagShort, flagCropped, flagExcessRows, flagDataLoss, flagResClamped, flagNotReduced, flagUndersize, flagOverCeiling,
      flagMemoryFault, flagSuspect] = (List.range 10).map (fun i => BitVec.ofNat 32 (2 ^ (16 + i))) := by decide

end Sys2Proof.Proofs
end

section
/-! The test of a rule and the taking of an entry (R134 to R138), and the ranges of LOAD RULE (R132). -/

namespace Sys2Proof.Proofs
open Sys2Proof.Machine

theorem ruleTest_of_ne_flagsAny {r : Rule} (h : r.measure ≠ .flagsAny) (f : FaceRecord) (working : BitVec 32) :
    ruleTest f working r = compareValue r.comparison (measureValue f r.measure) r.value.toNat := by
  unfold ruleTest
  split
  case h_1 flags => exact absurd flags h
  case h_2 => rfl

theorem ruleTest_of_flagsAny {r : Rule} (h : r.measure = .flagsAny) (f : FaceRecord) (working : BitVec 32) :
    ruleTest f working r = anyFlag working r.value := by simp [ruleTest, h]

/-- FLAGS_ANY misses when the working word has bits below `n` alone and the value has none of them (R137). -/
theorem ruleTest_eq_false_of_bits_apart {r : Rule} {working : BitVec 32} (hm : r.measure = .flagsAny) (n : Nat)
    (hw : ∀ i, n ≤ i → working.getLsbD i = false) (hv : ∀ i < n, r.value.getLsbD i = false) (f : FaceRecord) :
    ruleTest f working r = false := by
  rw [ruleTest_of_flagsAny hm, ← Bool.not_eq_true, anyFlag_iff_exists_bit]
  rintro ⟨i, -, inWorking, inValue⟩
  rcases Nat.lt_or_ge i n with below | above
  · simp [hv i below] at inValue
  · simp [hw i above] at inWorking

/-- An entry whose test is false leaves the evaluation as it is (R138). -/
theorem takeEntry_of_test_false {f : FaceRecord} {ev : Evaluation} {r : Rule} (h : ruleTest f ev.working r = false)
    (mask : BitVec 32) (n : Nat) : takeEntry f mask ev (n, r) = ev := by
  simp [takeEntry, ruleMatches, h]

/-- A match sets the entry's flag in the working word and records its action (R138). -/
theorem takeEntry_of_match {f : FaceRecord} {mask : BitVec 32} {ev : Evaluation} {n : Nat} {r : Rule}
    (part : takesPart f mask n r = true) (test : ruleTest f ev.working r = true) (needs : needsMet ev.working r.needs = true) :
    takeEntry f mask ev (n, r) = { working := ev.working ||| flagQ r.sets, actions := ev.actions ++ [r.action] } := by
  simp [takeEntry, ruleMatches, part, test, needs]

/-- A parameter of one byte is the byte at its offset; past the payload's end both are 0. -/
theorem param_one (p : List Byte) (o : Nat) : param p o 1 = (p.getD o 0).toNat := by
  rw [param, List.take_one, List.head?_drop, List.getD_eq_getElem?_getD]
  cases p[o]? <;> simp [beNat]

/-- No range of LOAD RULE reads the value, which stands at offsets 6 to 9 (R21, R136). -/
theorem ruleRanges_congr {p q : List Byte} (h : ∀ o, o < 6 ∨ 9 < o → p.getD o 0 = q.getD o 0) :
    ruleRanges p = ruleRanges q := by
  have same (o : Nat) (ho : o < 6 ∨ 9 < o) : param p o 1 = param q o 1 := by rw [param_one, param_one, h o ho]
  simp only [ruleRanges, same 1 (by decide), same 2 (by decide), same 3 (by decide), same 4 (by decide), same 5 (by decide),
    same 10 (by decide), same 11 (by decide), same 12 (by decide)]

/-- Settles O25: `ruleTest` is the comparison for every measure but FLAGS_ANY and a common bit for that one, and LOAD RULE's ranges
do not read the value. -/
theorem ruleTests : Obligations.RuleTests := by
  refine ⟨flagQ_eq_ofNat, fixedFlags_eq_ofNat, ?compares, ?meanGrey, fun p q _ _ same => by rw [ruleRanges_congr same], ?flagsAny⟩
  case compares =>
    intro f working r hm
    rw [ruleTest_of_ne_flagsAny hm]
    cases r.comparison <;> exact decide_eq_true_iff
  case meanGrey =>
    intro f working r hm hv grey
    have value : r.value.toNat = 1000 := by rw [hv]; decide
    have test : ruleTest f working r = compareValue r.comparison f.meanGrey 1000 := by
      rw [ruleTest_of_ne_flagsAny (by simp [hm]), hm, value, measureValue]
    constructor
    · intro less
      rw [test, less]
      exact decide_eq_true (by omega)
    · intro greater
      rw [test, greater]
      exact decide_eq_false (by omega)
  case flagsAny =>
    intro f mask ev n r hm
    have test : ruleTest f ev.working r = true ↔ ∃ i < 32, ev.working.getLsbD i = true ∧ r.value.getLsbD i = true := by
      rw [ruleTest_of_flagsAny hm, anyFlag_iff_exists_bit]
    refine ⟨test, fun c => ?_, fun hw hv => ?_, fun part needs common => ?_⟩
    · rw [ruleTest_of_flagsAny hm, ruleTest_of_flagsAny (r := { r with comparison := c }) hm]
    · have missed := ruleTest_eq_false_of_bits_apart hm 25 hw hv f
      exact ⟨missed, takeEntry_of_test_false missed mask n⟩
    · rw [takeEntry_of_match part (test.mpr common) needs]

end Sys2Proof.Proofs
end

section
/-! The outcome of a CLOSED item: the conditions of the table of R144, and its lines. -/

namespace Sys2Proof.Proofs
open Sys2Proof.Machine

theorem isKept_iff (f : FaceRecord) :
    isKept f = true ↔ f.disposition = some .coded ∨ f.disposition = some .codedOver := by
  simp [isKept]

theorem isLost_iff (f : FaceRecord) :
    isLost f = true ↔ f.disposition = some .withheldOver ∨ f.disposition = some .withheldRule ∨
      f.disposition = some .refusedGeometry ∨ f.disposition = some .refusedNoSlot ∨ f.disposition = some .abandoned := by
  simp [isLost, or_assoc]

theorem missingFace_iff (flags : BitVec 8) : (flags &&& itemMissingFace != 0) = true ↔ flags.getLsbD 2 = true := by
  rw [← and_twoPow_ne_zero_iff (by decide : 2 < 8)]
  exact bne_iff_ne

theorem isMarked_iff (f : FaceRecord) :
    anyFlag f.flags (flagSuspect ||| flagOverCeiling) = true ↔ f.flags.getLsbD 25 = true ∨ f.flags.getLsbD 23 = true := by
  rw [anyFlag_or, anyFlag_flagSuspect, anyFlag_flagOverCeiling, Bool.or_eq_true]

/-- Settles O26: each condition of `itemOutcome` is the table's, so its branches are the table's lines. -/
theorem outcomeTable : Obligations.OutcomeTable := by
  intro r kept lost marked
  have keptIff : r.faces.any isKept = true ↔ kept := by
    simp only [List.any_eq_true, isKept_iff, kept]
  have lostIff : (r.faces.any isLost || r.flags &&& itemMissingFace != 0) = true ↔ lost := by
    simp only [Bool.or_eq_true, List.any_eq_true, isLost_iff, missingFace_iff, lost]
  have markedIff : (r.faces.any (fun f => anyFlag f.flags (flagSuspect ||| flagOverCeiling))) = true ↔ marked := by
    simp only [List.any_eq_true, isMarked_iff, marked]
  have failed : (!r.faces.any isKept) = true ↔ ¬ kept := by rw [← keptIff, Bool.not_eq_true', Bool.not_eq_true]
  unfold itemOutcome
  simp only [failed, lostIff, markedIff]
  refine ⟨fun hk => ?_, fun hk hl => ?_, fun hk hl hm => ?_, fun hk hl hm => ?_⟩
  · rw [if_pos hk]
  · rw [if_neg (not_not.mpr hk), if_pos hl]
  · rw [if_neg (not_not.mpr hk), if_neg hl, if_pos hm]
  · rw [if_neg (not_not.mpr hk), if_neg hl, if_neg hm]

end Sys2Proof.Proofs
end

section
/-! Every command outside pin reset evolves the part, block by block: the ingress link, the Stream Tracker. -/

namespace Sys2Proof.Proofs
open Sys2Proof.Machine Sys2Proof.Safety Sys2Proof.Laws

theorem not_workless_of_operating {s : State} (h : s.flm.part = .operating) : ¬ workless s := by
  simp [workless, h]

theorem payload_le_of_headerFaulty {r : Record} (h : headerFaulty r = false) :
    r.body.payload.length ≤ Config.maxPayload := by
  simp only [headerFaulty, Bool.or_eq_false_iff, decide_eq_false_iff_not] at h
  omega

/-! ## The ingress link -/

theorem setMonitor_evolves (m : Monitor) (s : State) : Evolves s (setMonitor m s) := by
  unfold setMonitor
  simp only []
  split
  · exact (Evolves.ofIlu s _).trans (pushNotice_evolves _ _)
  · exact .ofIlu s _

theorem monitorBits_evolves (bits : List Bool) (s : State) : Evolves s (monitorBits bits s) := by
  induction bits generalizing s with
  | nil => exact .refl s
  | cons b bits ih => exact (setMonitor_evolves _ s).trans (ih _)

theorem countHeaderFault_evolves (s : State) : Evolves s (countHeaderFault s) := .ofIlu s _

theorem countPayloadFault_evolves (s : State) : Evolves s (countPayloadFault s) := .ofIlu s _

theorem endReceiving_evolves (s : State) : Evolves s (endReceiving s) := .ofIlu s _

theorem countOrphan_evolves (s : State) : Evolves s (countOrphan s) := .ofStk s _ (fun _ w => { w with })

/-- A record that arrives evolves the part if its destination does, outside reset, for a record that R2 does not fault. -/
theorem recordArrives_evolves (r : Record) (destination : State → State) (s : State)
    (h : headerFaulty r = false → ∀ u : State, u.flm.part ≠ .held → Evolves u (destination u)) :
    Evolves s (recordArrives r destination s) := by
  unfold recordArrives
  split
  · exact .refl s
  case isFalse arrives =>
    have part : s.flm.part ≠ .held := by
      intro held
      simp [discardsArrival, held] at arrives
    split
    · exact (endReceiving_evolves s).trans (countHeaderFault_evolves _)
    case isFalse sound =>
      exact (endReceiving_evolves s).trans (h (by simpa using sound) _ part)

theorem offerPass_evolves_of_sound {r : Record} (h : headerFaulty r = false) (s : State) : Evolves s (offerPass r s) :=
  offerPass_evolves r s (payload_le_of_headerFaulty h)

/-- A raw record evolves the part if the Stream Tracker does in OPERATING. -/
theorem rawArrives_evolves (r : Record) (st : Stream) (consume : State → State) (s : State)
    (h : headerFaulty r = false → ∀ u : State, u.flm.part = .operating → Evolves u (consume u)) :
    Evolves s (recordArrives r (rawDestination r st consume) s) := by
  refine recordArrives_evolves r _ s (fun sound u _ => ?_)
  unfold rawDestination
  split
  case isTrue own => exact h sound u own.1
  case isFalse => exact offerPass_evolves_of_sound sound u

theorem execStartOfRecord_evolves (s : State) : Evolves s (nextOr s (execStartOfRecord s)) := by
  unfold execStartOfRecord nextOr
  simp only []
  split
  · exact .refl s
  · have faults : Evolves s (if s.ilu.recordOpen = true then countHeaderFault s else s) := by
      split
      · exact countHeaderFault_evolves s
      · exact .refl s
    refine faults.trans ?_
    generalize (if s.ilu.recordOpen = true then countHeaderFault s else s) = u
    split
    · exact .ofIlu _ _
    · split
      · exact (Evolves.ofIlu _ _).trans (setMonitor_evolves _ _)
      · exact .ofIlu _ _

theorem execFramingFault_evolves (cause : FramingCause) (s : State) : Evolves s (nextOr s (execFramingFault cause s)) := by
  have one : Evolves s (if s.flm.part ≠ .held ∧ s.ilu.recordOpen then countHeaderFault (endReceiving s) else s) := by
    split
    · exact (endReceiving_evolves s).trans (countHeaderFault_evolves _)
    · exact .refl s
  cases cause <;> exact one

theorem execActivityTimerExpiry_evolves (s : State) : Evolves s (nextOr s (execActivityTimerExpiry s)) := by
  unfold execActivityTimerExpiry nextOr
  simp only []
  split
  · exact (Evolves.ofIlu s _).trans (setMonitor_evolves _ _)
  · exact .refl s

theorem execFill_evolves (target : Byte) (rec : Carried) (s : State) : Evolves s (nextOr s (execFill target rec s)) := by
  unfold execFill nextOr
  refine recordArrives_evolves _ _ s (fun sound u _ => ?_)
  split
  · exact offerPass_evolves_of_sound sound u
  · exact monitorBits_evolves _ u

theorem execProducedRecord_evolves (kind : ProducedKind) (st : Stream) (rec : Carried) (s : State) :
    Evolves s (nextOr s (execProducedRecord kind st rec s)) :=
  recordArrives_evolves _ _ s (fun sound u _ => offerPass_evolves_of_sound sound u)

theorem execNotice_evolves (station : Fin 32) (rec : Carried) (s : State) :
    Evolves s (nextOr s (execNotice station rec s)) :=
  recordArrives_evolves _ _ s (fun sound u _ => offerPass_evolves_of_sound sound u)

theorem unknownArrives_evolves (r : Record) (s : State) : Evolves s (unknownArrives r s) := by
  refine recordArrives_evolves _ _ s (fun sound u _ => ?_)
  split
  · exact offerPass_evolves_of_sound sound u
  · exact (Evolves.ofIlu u _).trans (offerPass_evolves_of_sound sound _)

theorem execPacingEighth_evolves (s : State) : Evolves s (nextOr s (execPacingEighth s)) := by
  unfold execPacingEighth nextOr
  simp only []
  split
  · exact .refl s
  · exact .ofIlu s _

end Sys2Proof.Proofs
end

section
/-! The Stream Tracker evolves the part: the records of owned streams and the stall timer. -/

namespace Sys2Proof.Proofs
open Sys2Proof.Machine Sys2Proof.Safety Sys2Proof.Laws

/-- One entry of the scaling contexts changes while the part works on items. -/
theorem scuSet_evolves (s : State) (k : Slot) (x : Option ScaleCtx) (h : workless s → NoWork s → x = none)
    (w : ScalingWithinSlot s → ∀ c, x = some c → c.outWidth ≤ Config.maxKeptWidth ∧ c.outHeight ≤ Config.maxKeptHeight ∧
      c.line.length ≤ Config.maxKeptWidth ∧ ∀ row, c.lastRow = some row → row.length ≤ Config.maxKeptWidth) :
    Evolves s { s with scu := s.scu.set k x } := by
  refine .ofScu s _ (fun p n j => ?_) (fun v j c hc => ?_)
  · simp only [Fin.getElem_fin, Vector.getElem_set]
    split
    · exact h p n
    · exact n.scaling j
  · simp only [Fin.getElem_fin, Vector.getElem_set] at hc
    split at hc
    · exact w v c hc
    · exact v j c hc

theorem handRows_evolves (k : Slot) (rows : List InputRow) (ended : Bool) (s : State) :
    Evolves s (handRows k rows ended s) := by
  refine scuSet_evolves s k _ (fun _ n => by simp [n.scaling k]) (fun v c hc => ?_)
  obtain ⟨d, hd, rfl⟩ := Option.map_eq_some_iff.mp hc
  exact v k d hd

theorem restartTimer_evolves (st : Stream) (ix : ItemIx) (s : State) (h : ¬ workless s) :
    Evolves s (restartTimer st ix s) := by
  unfold restartTimer
  split
  · exact .refl s
  · exact setContext_evolves _ _ s h

theorem completeShort_evolves (st : Stream) (ix : ItemIx) (n : Nat) (s : State) (h : ¬ workless s) :
    Evolves s (completeShort st ix n s) := by
  unfold completeShort
  split
  · exact .refl s
  · refine (modFace_evolves ix n (fun f => f.setFlags flagShort) s).trans ?_
    split
    · exact (handRows_evolves _ _ true _).trans (setContext_evolves _ _ _ h)
    · exact setContext_evolves _ _ _ h

@[simp] theorem completeShort_flm (st : Stream) (ix : ItemIx) (n : Nat) (s : State) :
    (completeShort st ix n s).flm = s.flm := by
  unfold completeShort
  split
  · rfl
  · split <;> rfl

/-- The face being filled, where there is one, completed short at an ITEM_CLOSE or FACE_OPEN (R35, R40). -/
def shortened (st : Stream) (ix : ItemIx) (s : State) : State :=
  match (s.stk.contexts[st]).state, (s.stk.contexts[st]).face with
  | .face, some n => completeShort st ix n s
  | _, _ => s

@[simp] theorem shortened_flm (st : Stream) (ix : ItemIx) (s : State) : (shortened st ix s).flm = s.flm := by
  unfold shortened
  split <;> simp

theorem shortened_evolves (st : Stream) (ix : ItemIx) (s : State) (h : ¬ workless s) : Evolves s (shortened st ix s) := by
  unfold shortened
  split
  · exact completeShort_evolves _ _ _ s h
  · exact .refl s

/-- An ITEM_CLOSE in its parts: the open face completed short, the item closed, the context idle, then what follows (R31, R40). -/
theorem closeItem_eq (st : Stream) (ix : ItemIx) (flags : BitVec 8) (parity : Option ParityRead) (s : State) :
    closeItem st ix flags parity s =
      (let u := modItem ix (fun r =>
        { (r.setFlags (itemFlagIf (decide (r.faces.length < r.declared)) itemMissingFace ||| flags)) with state := .closed })
        (shortened st ix s)
      relTry parity (decideItem parity ix (applyPending st (setContext st
        { u.stk.contexts[st] with state := .idle, item := none, face := none, timer := none } u)))) := rfl

theorem closeItem_evolves (st : Stream) (ix : ItemIx) (flags : BitVec 8) (parity : Option ParityRead) (s : State)
    (h : ¬ workless s) : Evolves s (closeItem st ix flags parity s) := by
  rw [closeItem_eq]
  refine Evolves.trans ?_ (relTry_evolves _ _)
  refine Evolves.trans ?_ (decideItem_evolves _ _ _)
  refine Evolves.trans ?_ (applyPending_evolves _ _)
  refine ((shortened_evolves st ix s h).trans (modItem_evolves ix _ _)).trans (setContext_evolves _ _ _ ?_)
  simpa [workless] using h

theorem withOpenItem_evolves (st : Stream) (parity : Option ParityRead) (handle : ItemIx → State → State) (s : State)
    (hp : s.flm.part = .operating) (h : ∀ ix (u : State), u.flm.part = .operating → Evolves u (handle ix u)) :
    Evolves s (withOpenItem st parity handle s) := by
  have handled (ix : ItemIx) : Evolves s (handle ix (restartTimer st ix s)) :=
    (restartTimer_evolves st ix s (not_workless_of_operating hp)).trans (h ix _ (by simpa using hp))
  unfold withOpenItem
  split
  · exact latch_evolves _ _
  · simp only []
    split
    · split
      · exact latch_evolves _ _
      · exact handled _
    · split
      · exact latch_evolves _ _
      · exact handled _
    · exact countOrphan_evolves s

end Sys2Proof.Proofs
end

section
/-! The raw records of owned streams and the stall timer evolve the part. -/

namespace Sys2Proof.Proofs
open Sys2Proof.Machine Sys2Proof.Safety Sys2Proof.Laws

/-! ## ITEM OPEN -/

/-- A step that has latched nothing since a state in OPERATING is in OPERATING still. -/
theorem Evolves.flm_of_not_latchedSince {s t : State} (h : Evolves s t) (l : latchedSince s t = false) : t.flm = s.flm := by
  rcases h.flm with same | ⟨clear, -, -, latched⟩
  · exact same
  · rw [latchedSince, clear] at l
    simp [latched] at l

theorem refuseItem_evolves (st : Stream) (seq : BitVec 32) (cause : Byte) (s : State) (h : ¬ workless s) :
    Evolves s (refuseItem st seq cause s) := by
  unfold refuseItem
  refine Evolves.trans ?_ (pushNotice_evolves _ _)
  exact .ofStk s _ (fun p => absurd p h)

theorem fenceCount_append_item (q : List QueueEntry) (ix : ItemIx) (released : Bool) :
    fenceCount (q ++ [.item ix released]) = fenceCount q := by
  simp [fenceCount]

theorem fenceCount_append_fence (q : List QueueEntry) (tag : Tag) : fenceCount (q ++ [.fence tag]) = fenceCount q + 1 := by
  simp [fenceCount]

theorem openOrRefuse_evolves (st : Stream) (seq : BitVec 32) (declared number : Nat) (parity : Option ParityRead)
    (s : State) (h : ¬ workless s) : Evolves s (openOrRefuse st seq declared number parity s) := by
  unfold openOrRefuse
  split
  · exact refuseItem_evolves _ _ _ s h
  · split
    · exact refuseItem_evolves _ _ _ s h
    case h_2 ix _ =>
      split
      · exact latch_evolves _ _
      · refine Evolves.trans ?_ (setContext_evolves _ _ _ h)
        refine (Evolves.ofStk s { s.stk with items := s.stk.items.set ix (some _), accepted := _ }
          (fun p => absurd p h)).trans (relQueue_evolves _ st _ _ _ (fun p => absurd p h) (fun b => ?_))
        rw [fenceCount_append_item]
        exact b.2.2.2 st

theorem itemOpenTaken_evolves (r : Record) (st : Stream) (seq : BitVec 32) (declared number : Nat)
    (parity : Option ParityRead) (s : State) (sound : headerFaulty r = false) (hp : s.flm.part = .operating) :
    Evolves s (itemOpenTaken r st seq declared number parity s) := by
  have busy := not_workless_of_operating hp
  have reopened (ix : ItemIx) : Evolves s
      (let s' := closeItem st ix itemImplicitClose parity s
       if latchedSince s s' then s'
       else if (s'.stk.map[st]).role = .pass then offerPass r s'
       else openOrRefuse st seq declared number parity s') := by
    have closed := closeItem_evolves st ix itemImplicitClose parity s busy
    simp only []
    split
    · exact closed
    case isFalse clear =>
      have flm := Evolves.flm_of_not_latchedSince closed (by simpa using clear)
      split
      · exact closed.trans (offerPass_evolves_of_sound sound _)
      · exact closed.trans (openOrRefuse_evolves _ _ _ _ _ _ (by simpa [workless, flm] using busy))
  unfold itemOpenTaken
  split
  · exact latch_evolves _ _
  · simp only []
    split
    · split
      · exact latch_evolves _ _
      · exact reopened _
    · split
      · exact latch_evolves _ _
      · exact reopened _
    · exact openOrRefuse_evolves _ _ _ _ _ s busy

theorem execItemOpen_evolves (st : Stream) (rec : Carried) (parity : Option ParityRead) (s : State) :
    Evolves s (nextOr s (execItemOpen st rec parity s)) := by
  unfold execItemOpen nextOr
  refine rawArrives_evolves _ st _ s (fun sound u hp => ?_)
  split
  · exact countPayloadFault_evolves u
  · exact itemOpenTaken_evolves _ _ _ _ _ _ u sound hp

/-! ## FACE OPEN -/

/-- An output size never exceeds the kept size, whatever the two resolutions (R67, R68). -/
theorem outputSize_scaleStep_le (kept inn out : Nat) : outputSize kept (scaleStep inn out) ≤ kept := by
  have step : scaleStep inn out = 0 ∨ 256 ≤ scaleStep inn out := by
    unfold scaleStep
    split
    · exact .inr le_rfl
    · rcases Nat.eq_zero_or_pos out with rfl | pos
      · exact .inl (by simp)
      · refine .inr ((Nat.le_div_iff_mul_le (by omega)).mpr (by omega))
  unfold outputSize
  rcases step with zero | above
  · simp [zero]
  · exact Nat.div_le_of_le_mul (by rw [Nat.mul_comm]; exact Nat.mul_le_mul_right kept above)

/-- A context at its binding keeps to the slot's rows (R66). -/
theorem bindContext_within {dpi keptWidth keptHeight outDpi toneSlot : Nat} (hw : keptWidth ≤ Config.maxKeptWidth)
    (hh : keptHeight ≤ Config.maxKeptHeight) :
    let c := bindContext dpi keptWidth keptHeight outDpi toneSlot
    c.outWidth ≤ Config.maxKeptWidth ∧ c.outHeight ≤ Config.maxKeptHeight ∧ c.line.length ≤ Config.maxKeptWidth ∧
      ∀ row, c.lastRow = some row → row.length ≤ Config.maxKeptWidth := by
  have width := (outputSize_scaleStep_le keptWidth dpi outDpi).trans hw
  have height := (outputSize_scaleStep_le keptHeight dpi outDpi).trans hh
  exact ⟨width, height, by simpa [bindContext] using width, fun row hr => by cases hr⟩

theorem appendFace_evolves (st : Stream) (ix : ItemIx) (n : Nat) (f : FaceRecord) (state : CtxState) (rows : Nat) (s : State)
    (h : ¬ workless s) : Evolves s (appendFace st ix n f state rows s) :=
  (modItem_evolves ix _ s).trans (setContext_evolves st _ _ h)

@[simp] theorem appendFace_flm (st : Stream) (ix : ItemIx) (n : Nat) (f : FaceRecord) (state : CtxState) (rows : Nat)
    (s : State) : (appendFace st ix n f state rows s).flm = s.flm := rfl

theorem createFace_evolves (st : Stream) (ix : ItemIx) (r : ItemRecord) (side : Side) (dpi width height : Nat) (s : State)
    (h : ¬ workless s) : Evolves s (createFace st ix r side dpi width height s) := by
  unfold createFace
  simp only []
  split
  · exact appendFace_evolves _ _ _ _ _ _ s h
  · split
    · exact appendFace_evolves _ _ _ _ _ _ s h
    case h_2 k _ =>
      refine Evolves.trans ?_ (evalPacing_evolves _)
      refine Evolves.trans ?_ (appendFace_evolves _ _ _ _ _ _ _ h)
      refine Evolves.trans ?_ (setSlot_evolves k .filling _ h (.inl rfl))
      refine scuSet_evolves s k _ (fun p => absurd p h) (fun _ c hc => ?_)
      obtain rfl := Option.some.inj hc
      exact bindContext_within (min_le_right _ _) (min_le_right _ _)

theorem faceOpenTaken_eq (st : Stream) (side : Side) (dpi width height : Nat) (ix : ItemIx) (s : State) :
    faceOpenTaken st side dpi width height ix s =
      (match itemAt (shortened st ix s) ix with
      | none => shortened st ix s
      | some r =>
        if isExtraFace r side then
          let u := modItem ix (fun r => r.setFlags itemExtraFace) (shortened st ix s)
          setContext st { u.stk.contexts[st] with face := none } u
        else createFace st ix r side dpi width height (shortened st ix s)) := rfl

theorem faceOpenTaken_evolves (st : Stream) (side : Side) (dpi width height : Nat) (ix : ItemIx) (s : State)
    (h : ¬ workless s) : Evolves s (faceOpenTaken st side dpi width height ix s) := by
  have busy : ¬ workless (shortened st ix s) := by simpa [workless] using h
  rw [faceOpenTaken_eq]
  refine (shortened_evolves st ix s h).trans ?_
  split
  · exact .refl _
  · split
    · exact (modItem_evolves ix _ _).trans (setContext_evolves _ _ _ busy)
    · exact createFace_evolves _ _ _ _ _ _ _ _ busy

theorem execFaceOpen_evolves (st : Stream) (rec : Carried) (parity : Option ParityRead) (s : State) :
    Evolves s (nextOr s (execFaceOpen st rec parity s)) := by
  unfold execFaceOpen nextOr
  refine rawArrives_evolves _ st _ s (fun _ u hp => ?_)
  split
  · exact countPayloadFault_evolves u
  · exact withOpenItem_evolves _ _ _ u hp (fun ix v hv => faceOpenTaken_evolves _ _ _ _ _ ix v (not_workless_of_operating hv))

/-! ## STRIP -/

theorem stripInFace_evolves (st : Stream) (ix : ItemIx) (n : Nat) (f : FaceRecord) (rec : Carried) (s : State)
    (h : ¬ workless s) : Evolves s (stripInFace st ix n f rec s) := by
  unfold stripInFace
  simp only []
  cases f.slot with
  | some k =>
    refine Evolves.trans ?_ (setContext_evolves _ _ _ h)
    exact Evolves.trans (modFace_evolves ix n _ s) (handRows_evolves _ _ _ _)
  | none => exact Evolves.trans (modFace_evolves ix n _ s) (setContext_evolves _ _ _ h)

theorem stripInItem_evolves (st : Stream) (ix : ItemIx) (n : Nat) (f : FaceRecord) (rec : Carried) (s : State)
    (h : ¬ workless s) : Evolves s (stripInItem st ix n f rec s) := by
  unfold stripInItem
  split
  · exact .refl s
  · exact (modFace_evolves ix n _ s).trans (setContext_evolves _ _ _ h)

theorem stripTaken_evolves (st : Stream) (rec : Carried) (ix : ItemIx) (s : State) (h : ¬ workless s) :
    Evolves s (stripTaken st rec ix s) := by
  unfold stripTaken
  simp only []
  split
  · exact .refl s
  · split
    · exact .refl s
    · split
      · exact stripInFace_evolves _ _ _ _ _ s h
      · exact stripInItem_evolves _ _ _ _ _ s h

theorem execStrip_evolves (st : Stream) (rec : Carried) (parity : Option ParityRead) (s : State) :
    Evolves s (nextOr s (execStrip st rec parity s)) := by
  unfold execStrip nextOr
  refine rawArrives_evolves _ st _ s (fun _ u hp => ?_)
  exact withOpenItem_evolves _ _ _ u hp (fun ix v hv => stripTaken_evolves _ _ ix v (not_workless_of_operating hv))

/-! ## ITEM CLOSE, ITEM CANCEL and the stall timer -/

theorem execItemClose_evolves (st : Stream) (rec : Carried) (parity : Option ParityRead) (s : State) :
    Evolves s (nextOr s (execItemClose st rec parity s)) := by
  unfold execItemClose nextOr
  refine rawArrives_evolves _ st _ s (fun _ u hp => ?_)
  split
  · exact countPayloadFault_evolves u
  · exact withOpenItem_evolves _ _ _ u hp (fun ix v hv => closeItem_evolves _ ix _ _ v (not_workless_of_operating hv))

/-- A slot goes to SCRUBBING out of the ready queue (R54). -/
theorem unready_evolves (k : Slot) (s : State) :
    Evolves s (toScrub k { s with fmc := { s.fmc with ready := s.fmc.ready.erase k } }) := by
  refine slotsSet_evolves s _ k .scrubbing rfl (by simp) rfl rfl (fun _ w => ⟨by simp [w.ready], rfl⟩) ?_ (by simp) ?_ (by simp)
  · exact fun j hj => List.mem_append_left _ hj
  · exact fun j hj hm => (List.mem_erase_of_ne hj).mpr hm

theorem abortFace_evolves (ix : ItemIx) (s : State) (n : Nat) : Evolves s (abortFace ix s n) := by
  unfold abortFace
  split
  · exact .refl s
  · split
    · refine Evolves.trans ?_ (toScrub_evolves _ _)
      exact (modFace_evolves ix n (fun f => f.abandon none) s).trans
        (scuSet_evolves _ _ none (fun _ _ => rfl) (fun _ _ hc => by cases hc))
    · exact (modFace_evolves ix n (fun f => f.abandon none) s).trans (unready_evolves _ _)
    case h_3 f _ _ _ _ =>
      refine (modFace_evolves ix n (fun g => g.abandon f.slot) s).trans (.ofCnv _ _ (fun _ w => ?_))
      have idle : s.cnv = none := w.converting
      simp [idle]
    · split
      · exact (modFace_evolves ix n (fun f => { f with slot := none }) s).trans (toScrub_evolves _ _)
      · exact .refl s
    · exact .refl s
    · exact modFace_evolves _ _ _ s

@[simp] theorem abortFace_flm (ix : ItemIx) (s : State) (n : Nat) : (abortFace ix s n).flm = s.flm := by
  unfold abortFace
  split
  · rfl
  · split <;> [rfl; rfl; rfl; (split <;> rfl); rfl; rfl]

theorem abortFaces_evolve (ix : ItemIx) (ns : List Nat) (s : State) : Evolves s (ns.foldl (abortFace ix) s) := by
  induction ns generalizing s with
  | nil => exact .refl s
  | cons n ns ih => exact (abortFace_evolves ix s n).trans (ih _)

@[simp] theorem abortFaces_flm (ix : ItemIx) (ns : List Nat) (s : State) : (ns.foldl (abortFace ix) s).flm = s.flm := by
  induction ns generalizing s with
  | nil => rfl
  | cons n ns ih => simp [ih]

theorem stopIfSettling_evolves (parity : Option ParityRead) (s : State) : Evolves s (stopIfSettling parity s) := by
  unfold stopIfSettling
  split
  · exact .refl s
  · split
    · split
      · exact cnvStop_evolves _ _ s
      · exact .refl s
    · split
      · exact cnvStop_evolves _ _ s
      · exact .refl s
    · exact .refl s
    · exact .refl s

theorem abortItem_evolves (st : Stream) (ix : ItemIx) (outcome : ItemOutcome) (after : CtxState)
    (parity : Option ParityRead) (s : State) (h : ¬ workless s) : Evolves s (abortItem st ix outcome after parity s) := by
  unfold abortItem
  simp only []
  refine Evolves.trans ?_ (relTry_evolves _ _)
  refine Evolves.trans ?_ (stopIfSettling_evolves _ _)
  refine Evolves.trans ?_ (applyPending_evolves _ _)
  refine Evolves.trans ?_ (setContext_evolves _ _ _ (by simpa [workless] using h))
  exact (abortFaces_evolve ix _ s).trans (modItem_evolves ix _ _)

theorem execItemCancel_evolves (st : Stream) (rec : Carried) (parity : Option ParityRead) (s : State) :
    Evolves s (nextOr s (execItemCancel st rec parity s)) := by
  unfold execItemCancel nextOr
  refine rawArrives_evolves _ st _ s (fun _ u hp => ?_)
  split
  · exact countPayloadFault_evolves u
  · exact withOpenItem_evolves _ _ _ u hp (fun ix v hv => abortItem_evolves _ ix _ _ _ v (not_workless_of_operating hv))

theorem execStallExpiry_evolves (st : Stream) (parity : Option ParityRead) (s : State) :
    Evolves s (nextOr s (execStallExpiry st parity s)) := by
  unfold execStallExpiry nextOr
  simp only []
  split
  case isTrue running =>
    split
    · exact latch_evolves _ _
    · split
      · exact .refl s
      · split
        · exact latch_evolves _ _
        · exact abortItem_evolves _ _ _ _ _ s (not_workless_of_operating running.1)
  · exact .refl s

end Sys2Proof.Proofs
end

section
/-! The steps of the pipeline evolve the part. -/

namespace Sys2Proof.Proofs
open Sys2Proof.Machine Sys2Proof.Safety Sys2Proof.Laws

/-! ## The Scaling Unit -/

theorem horizontalPass_length (step width : Nat) (row : List Byte) : (horizontalPass step width row).length = width := by
  simp [horizontalPass]

theorem finishedRow_length (d : Dru) (c : ScaleCtx) (sums : List Nat) : (finishedRow d c sums).length = sums.length := by
  simp [finishedRow]

/-- A row taken leaves the context's sizes, and a row written at once is one below the last (R70, R71). -/
theorem takeInputRow_bounds (d : Dru) (c : ScaleCtx) (row : InputRow) :
    (takeInputRow d c row).1.outWidth = c.outWidth ∧ (takeInputRow d c row).1.outHeight = c.outHeight ∧
      ((takeInputRow d c row).1.line.length ≤ max c.line.length c.outWidth) ∧
      (∀ last, (takeInputRow d c row).1.lastRow = some last → c.lastRow = some last ∨ last.length ≤ c.outWidth) ∧
      ∀ k out, (takeInputRow d c row).2 = some (k, out) → k + 1 < c.outHeight ∧ out.length ≤ c.outWidth := by
  have pass := horizontalPass_length c.step c.outWidth (rowSamples c.keptWidth row)
  unfold takeInputRow
  simp only []
  split
  · exact ⟨rfl, rfl, le_max_left _ _, fun _ h => .inl h, fun _ _ h => by cases h⟩
  · split
    · exact ⟨rfl, rfl, by simp, fun _ h => .inl h, fun _ _ h => by cases h⟩
    · split
      case isTrue below =>
        refine ⟨rfl, rfl, by simp [pass], fun _ h => .inl h, fun k out h => ?_⟩
        simp only [Option.some.injEq, Prod.mk.injEq] at h
        obtain ⟨rfl, rfl⟩ := h
        exact ⟨below, by simp [finishedRow_length, pass]⟩
      · refine ⟨rfl, rfl, by simp, fun last h => .inr ?_, fun _ _ h => by cases h⟩
        obtain rfl := Option.some.inj h
        simp [finishedRow_length, pass]

theorem execScuInputRow_evolves (k : Slot) (parity : Option ParityRead) (s : State) :
    Evolves s (nextOr s (execScuInputRow k parity s)) := by
  unfold execScuInputRow nextOr
  simp only []
  split
  · exact .refl s
  case h_2 c hc =>
    split
    · exact .refl s
    case h_2 row rest _ =>
      split
      · exact latch_evolves _ _
      · obtain ⟨width, height, line, last, written⟩ := takeInputRow_bounds s.dru { c with waiting := rest } row
        generalize takeInputRow s.dru { c with waiting := rest } row = taken at *
        have bound : Evolves s { s with scu := s.scu.set k (some taken.1) } := by
          refine scuSet_evolves s k _ (fun _ n => ?_) (fun v c' hc' => ?_)
          · rw [n.scaling k] at hc
            cases hc
          · obtain rfl := Option.some.inj hc'
            obtain ⟨a, b, l, r⟩ := v k c hc
            refine ⟨width ▸ a, height ▸ b, line.trans (max_le l a), fun x hx => ?_⟩
            rcases last x hx with old | new
            · exact r x old
            · exact new.trans a
        split
        · exact bound
        case h_2 n out hw =>
          refine bound.trans (writeGrey_evolves k n out _ (fun v => ?_))
          obtain ⟨below, short⟩ := written n out hw
          obtain ⟨a, b, -, -⟩ := v.2.1 k taken.1 (by simp)
          rw [width] at a
          rw [height] at b
          exact ⟨by simp only [] at *; omega, short.trans a⟩

@[simp] theorem writeGrey_frame (k : Slot) (n : Nat) (row : List Byte) (s : State) :
    (writeGrey k n row s).fmc.slots = s.fmc.slots ∧ (writeGrey k n row s).fmc.ready = s.fmc.ready ∧
      (writeGrey k n row s).fmc.scrubOrder = s.fmc.scrubOrder := by
  unfold writeGrey
  split <;> simp

/-- A slot filled becomes READY at the tail of the ready queue, its context released (R50, R51). -/
theorem makeReady_evolves (k : Slot) (s : State) (h : ∃ c, s.scu[k] = some c) :
    Evolves s { s with
      scu := s.scu.set k none
      fmc := { s.fmc with slots := s.fmc.slots.set k .ready, ready := s.fmc.ready ++ [k] } } := by
  obtain ⟨c, hc⟩ := h
  refine Evolves.trans (t := { s with fmc := { s.fmc with slots := s.fmc.slots.set k .ready, ready := s.fmc.ready ++ [k] } })
    (slotsSet_evolves s _ k .ready rfl (by simp) rfl rfl (fun _ n => ?_) (fun _ h => h) (by simp)
      (fun j _ hj => List.mem_append_left _ hj) (by simp))
    (scuSet_evolves _ k none (fun _ _ => rfl) (fun _ _ h => by cases h))
  rw [n.scaling k] at hc
  cases hc

theorem execLastRowWriteComplete_evolves (k : Slot) (parity : Option ParityRead) (s : State) :
    Evolves s (nextOr s (execLastRowWriteComplete k parity s)) := by
  unfold execLastRowWriteComplete nextOr
  simp only []
  split
  · exact .refl s
  case h_2 c hc =>
    split
    · exact .refl s
    case h_2 row hrow =>
      split
      · have wrote : Evolves s (writeGrey k (c.outHeight - 1) row s) := by
          refine writeGrey_evolves k _ row s (fun v => ?_)
          obtain ⟨-, b, -, r⟩ := v.2.1 k c hc
          refine ⟨?_, r row hrow⟩
          simp only [Config.maxKeptHeight] at *
          omega
        have scu : (writeGrey k (c.outHeight - 1) row s).scu[k] = some c := by simpa using hc
        refine Evolves.trans ?_ (cnvTake_evolves _ _)
        cases faceHolding (writeGrey k (c.outHeight - 1) row s) k with
        | some held =>
          refine Evolves.trans ?_ (makeReady_evolves k _ ⟨c, ?_⟩)
          · exact wrote.trans (modFace_evolves _ _ _ _)
          · simpa using hc
        | none => exact wrote.trans (makeReady_evolves k _ ⟨c, scu⟩)
      · exact .refl s

/-! ## The Conversion Engine -/

/-- While the engine has a face, a slot may be put in CODED. -/
theorem setCoded_evolves (k : Slot) (s : State) (h : s.cnv ≠ none) : Evolves s (setSlot k .coded s) := by
  refine slotsSet_evolves s _ k .coded rfl (by simp) rfl rfl (fun _ n => absurd n.converting h) (fun _ h => h) (by simp)
    (fun _ _ h => h) (by simp)

theorem settleFace_evolves (w : Work) (kept : Bool) (g : FaceRecord → FaceRecord) (parity : Option ParityRead) (s : State)
    (h : s.cnv ≠ none) : Evolves s (settleFace w kept g parity s) := by
  unfold settleFace
  refine Evolves.trans ?_ (relTry_evolves _ _)
  refine Evolves.trans ?_ (cnvTake_evolves _ _)
  refine Evolves.trans ?_ (decideItem_evolves _ _ _)
  refine Evolves.trans ?_ (.ofCnv _ _ (fun _ _ => rfl))
  refine (modFace_evolves w.item w.face
    (fun f => { (g f) with state := .final, slot := if kept then f.slot else none }) s).trans ?_
  cases kept
  · exact toScrub_evolves _ _
  · exact setCoded_evolves _ _ h

theorem attemptOver_evolves (w : Work) (parity : Option ParityRead) (s : State) (h : s.cnv ≠ none) :
    Evolves s (attemptOver w parity s) := by
  unfold attemptOver
  split
  · exact (modFace_evolves w.item w.face (fun f => f.endAttempt w) s).trans (.ofCnv _ _ (fun _ n => absurd n.converting h))
  · exact settleFace_evolves _ _ _ _ s h

theorem convertRow_evolves (w : Work) (row : List Byte) (parity : Option ParityRead) (s : State) (h : s.cnv ≠ none) :
    Evolves s (convertRow w row parity s) := by
  unfold convertRow
  simp only []
  split
  · exact latch_evolves _ _
  · generalize releaseRows (slotEntries s.dru w.params.codeSlot) w _ = x
    have wrote := writeCoded_evolves w.slot w.coder.wordsWritten x.run.words.flatten s
    have busy : (writeCoded w.slot w.coder.wordsWritten x.run.words.flatten s).cnv ≠ none := by simpa using h
    generalize writeCoded w.slot w.coder.wordsWritten x.run.words.flatten s = u at *
    have next (w' : Work) : Evolves s { u with cnv := some w' } :=
      wrote.trans (.ofCnv _ _ (fun _ n => absurd n.converting busy))
    split
    · split
      · exact wrote.trans (cnvStop_evolves _ _ _)
      · exact wrote.trans (attemptOver_evolves _ _ _ busy)
    · split
      · exact next _
      · split
        · exact wrote.trans (cnvStop_evolves _ _ _)
        · exact next _

theorem latchedSince_iff {before s : State} : latchedSince before s = true ↔ s.flm.latch ≠ none ∧ before.flm.latch = none := by
  simp [latchedSince, Option.isSome_iff_ne_none]

/-- A fault reported is latched, or nothing happens (R205). -/
theorem latch_same_or_latched (cause : FaultCause) (s : State) :
    latch cause s = s ∨ latchedSince s (latch cause s) = true := by
  rcases latch_cases cause s with same | ⟨clear, -, t, made, flm, -⟩
  · exact .inl same
  · exact .inr (latchedSince_iff.mpr ⟨by simp [made, flm], clear⟩)

/-- A word read latches a fault, or changes the Face Memory Controller alone (R46, R47). -/
theorem readWord_fmc_or_latched (w : Nat) (now : ReadResult) (s : State) :
    (∃ f, (readWord w now s).1 = { s with fmc := f }) ∨ latchedSince s (readWord w now s).1 = true := by
  unfold readWord
  simp only []
  rcases countResult_cases (s.fmc.mem.readResult w now)
    { s with fmc := { s.fmc with mem := s.fmc.mem.noteDamage w (s.fmc.mem.readResult w now) } } with
    ⟨-, e⟩ | ⟨-, e⟩ | ⟨-, t, rfl, e⟩ <;> rw [e]
  · exact .inl ⟨_, rfl⟩
  · exact .inl ⟨_, rfl⟩
  · split
    · exact (latch_same_or_latched _ _).imp (fun same => ⟨_, same⟩) id
    · exact .inl ⟨_, rfl⟩

/-- A latch met by the first of several operations is still there after the others. -/
theorem latchedSince_evolves {s t u : State} (h : latchedSince s t = true) (e : Evolves t u) : latchedSince s u = true := by
  obtain ⟨found, clear⟩ := latchedSince_iff.mp h
  rcases e.flm with same | ⟨no, -⟩
  · exact latchedSince_iff.mpr ⟨same ▸ found, clear⟩
  · exact absurd no found

/-- Words read without a latch change the Face Memory Controller alone (R46, R47). -/
theorem readWords_fmc (n w : Nat) (reads : List ReadResult) (s : State)
    (h : latchedSince s (readWords n w reads s).1 = false) : ∃ f, (readWords n w reads s).1 = { s with fmc := f } := by
  induction n generalizing w reads s with
  | zero => exact ⟨s.fmc, rfl⟩
  | succ n ih =>
    simp only [readWords] at h ⊢
    split at h
    case isTrue latched =>
      have still := latchedSince_evolves latched (lateReads_evolves (w + 1) (reads.tail.take n) _)
      exact absurd (still.symm.trans h) (by decide)
    case isFalse clear =>
      rw [if_neg clear]
      obtain ⟨f, hf⟩ := (readWord_fmc_or_latched w (reads.headD .clean) s).resolve_right clear
      rw [hf] at h ⊢
      obtain ⟨g, hg⟩ := ih (w + 1) reads.tail _ h
      exact ⟨g, hg⟩

theorem execCnvGreyRow_evolves (reads : List ReadResult) (parity : Option ParityRead) (s : State) :
    Evolves s (nextOr s (execCnvGreyRow reads parity s)) := by
  unfold execCnvGreyRow nextOr
  simp only []
  split
  · split
    · exact countResults_evolve _ s
    · exact .refl s
  case h_2 w hw =>
    split
    · have read := readWords_evolves ((w.width + 7) / 8) ((greyBase w.slot + w.nextRow * Config.rowStride) / 8) reads s
      have kept := readWords_fmc ((w.width + 7) / 8) ((greyBase w.slot + w.nextRow * Config.rowStride) / 8) reads s
      generalize readWords ((w.width + 7) / 8) ((greyBase w.slot + w.nextRow * Config.rowStride) / 8) reads s = done at *
      split
      · exact read
      case isFalse clear =>
        obtain ⟨f, same⟩ := kept (by simpa using clear)
        have busy : done.1.cnv ≠ none := by simp [same, hw]
        split
        · exact (read.trans (modFace_evolves w.item w.face (fun f => f.setFlags flagMemoryFault) _)).trans
            (convertRow_evolves _ _ _ _ busy)
        · exact read.trans (convertRow_evolves _ _ _ _ busy)
    · exact .refl s

theorem execAttemptFit_evolves (parity : Option ParityRead) (s : State) : Evolves s (nextOr s (execAttemptFit parity s)) := by
  unfold execAttemptFit nextOr
  simp only []
  split
  · exact .refl s
  case h_2 w hw =>
    split
    · split
      · exact latch_evolves _ _
      · have wrote := writeCoded_evolves w.slot w.coder.wordsWritten (lastWordBytes w.coder) s
        split
        · exact wrote.trans (cnvStop_evolves _ _ _)
        · have measured := wrote.trans (modFace_evolves w.item w.face (fun f => f.endAttempt w) _)
          split
          · exact measured
          · refine measured.trans (.ofCnv _ _ (fun _ n => ?_))
            have idle := n.converting
            simp [hw] at idle
    · exact .refl s

theorem execEvaluationEnd_evolves (parity : Option ParityRead) (s : State) :
    Evolves s (nextOr s (execEvaluationEnd parity s)) := by
  unfold execEvaluationEnd nextOr
  simp only []
  split
  · exact .refl s
  case h_2 w hw =>
    split
    · split
      · exact latch_evolves _ _
      · exact settleFace_evolves _ _ _ _ s (by simp [hw])
    · exact .refl s

/-! ## The Release Engine -/

/-- A release in progress goes on only where the part has work. -/
theorem offerSegment_evolves (x : Release) (s : State) (h : s.rel.release ≠ none) :
    Evolves s { s with rel := { s.rel with release := some x } } :=
  releaseOnly_evolves s s.rel.position (some x) (fun _ n => absurd n.release h)

theorem execCodedSegmentComposed_evolves (reads : List ReadResult) (parity : Option ParityRead) (s : State) :
    Evolves s (nextOr s (execCodedSegmentComposed reads parity s)) := by
  unfold execCodedSegmentComposed nextOr
  simp only []
  split
  · exact .refl s
  case h_2 x hx =>
    split
    case h_1 n i r _ _ _ =>
      split
      · exact .refl s
      case h_2 f _ =>
        split
        · exact .refl s
        case h_2 k _ =>
          split
          · exact .refl s
          · split
            · exact latch_evolves _ _
            · have read := readWords_evolves ((segmentLength f.codedBytes i + 7) / 8)
                ((codedBase k + Config.segmentBytes * i) / 8) reads s
              have kept := readWords_fmc ((segmentLength f.codedBytes i + 7) / 8)
                ((codedBase k + Config.segmentBytes * i) / 8) reads s
              generalize readWords ((segmentLength f.codedBytes i + 7) / 8)
                ((codedBase k + Config.segmentBytes * i) / 8) reads s = done at *
              split
              · exact read
              case isFalse clear =>
                obtain ⟨g, same⟩ := kept (by simpa using clear)
                have busy : done.1.rel.release ≠ none := by simp [same, hx]
                split
                · exact (read.trans (modFace_evolves x.item n (fun f => f.setFlags flagMemoryFault) _)).trans
                    (offerSegment_evolves _ _ busy)
                · exact read.trans (offerSegment_evolves _ _ busy)
    · exact .refl s

end Sys2Proof.Proofs
end

section
/-! The directives evolve the part. -/

namespace Sys2Proof.Proofs
open Sys2Proof.Machine Sys2Proof.Safety Sys2Proof.Laws

theorem answer_evolves (p : List Byte) (tag : Tag) (status : Status) (fields : List Byte) (s : State) :
    Evolves s (answer p tag status fields s) := pushNotice_evolves _ s

/-- The payload checks refuse a directive or let it act, which happens in no part state but OPERATING (R168). -/
theorem takeDirective_evolves (rec : Carried) (act : List Byte → Tag → State → State) (s : State)
    (h : s.flm.part ≠ .starting → Evolves s (act rec.payload rec.tag s)) : Evolves s (takeDirective rec act s) := by
  unfold takeDirective
  simp only []
  split
  · exact answer_evolves _ _ _ _ s
  · split
    · exact answer_evolves _ _ _ _ s
    case isFalse started =>
      split
      · exact answer_evolves _ _ _ _ s
      · split
        · exact answer_evolves _ _ _ _ s
        · exact h started

theorem checkRange_evolves (ranges : List (Nat × Bool)) (p : List Byte) (tag : Tag) (act : State → State) (s : State)
    (h : Evolves s (act s)) : Evolves s (checkRange ranges p tag act s) := by
  unfold checkRange
  split
  · exact answer_evolves _ _ _ _ s
  · exact h

theorem checkQuiescedLoad_evolves (p : List Byte) (tag : Tag) (act : State → State) (s : State)
    (h : Evolves s (act s)) : Evolves s (checkQuiescedLoad p tag act s) := by
  unfold checkQuiescedLoad
  split
  · exact h
  · exact answer_evolves _ _ _ _ s

theorem directiveArrives_evolves (station : Fin 32) (rec : Carried) (act : List Byte → Tag → State → State) (s : State)
    (h : ∀ u : State, u.flm.part = .operating → Evolves u (act rec.payload rec.tag u)) :
    Evolves s (directiveArrives station rec act s) := by
  unfold directiveArrives
  refine recordArrives_evolves _ _ s (fun sound u notHeld => ?_)
  have taken (notBypass : u.flm.part ≠ .bypass) : Evolves u (takeDirective rec act u) := by
    refine takeDirective_evolves rec act u (fun started => h u ?_)
    cases e : u.flm.part <;> simp_all
  split
  · exact offerPass_evolves_of_sound sound u
  case isFalse notBypass =>
    split
    · exact (taken notBypass).trans (offerPass_evolves_of_sound sound _)
    · split
      · split
        · exact (taken notBypass).trans (offerPass_evolves_of_sound sound _)
        · exact taken notBypass
      · exact offerPass_evolves_of_sound sound u

/-- The Directive Unit's tables, counts and duty change, not what it owes or queues. -/
theorem druTables_evolves (s : State) (x : Dru) (hq : x.quiesce = s.dru.quiesce) (ho : x.owed = s.dru.owed)
    (hn : x.notices = s.dru.notices) : Evolves s { s with dru := x } :=
  .ofDru s x (fun _ w => ⟨hq.trans w.running, ho.trans w.owed⟩) (fun b => by rw [hq, ho, hn]; exact ⟨b.1, b.2.1, b.2.2.1⟩)

/-- A table entry loaded, answered DONE. -/
theorem loadAnswered_evolves (p : List Byte) (tag : Tag) (status : Status) (fields : List Byte) (s : State) (x : Dru)
    (hq : x.quiesce = s.dru.quiesce) (ho : x.owed = s.dru.owed) (hn : x.notices = s.dru.notices) :
    Evolves s (answer p tag status fields { s with dru := x }) :=
  (druTables_evolves s x hq ho hn).trans (answer_evolves _ _ _ _ _)

theorem clearCounts_evolves (s : State) : Evolves s (clearCounts s) := by
  refine (Evolves.ofIlu s { s.ilu with headerFaults := 0, payloadFaults := 0, unknownKinds := 0, monitor := { s.ilu.monitor with count := 0 } }).trans ?_
  refine Evolves.trans (.ofElu _ { s.elu with overflow := 0 } id id) ?_
  refine Evolves.trans (.ofStk _ { s.stk with orphans := 0, accepted := 0, lost := 0 } (fun _ w => { w with })) ?_
  refine Evolves.trans (counts_evolve _ 0 0 s.fmc.tally le_rfl) ?_
  exact druTables_evolves _ { s.dru with lost := 0 } rfl rfl rfl

theorem actStatusQuery_evolves (p : List Byte) (tag : Tag) (s : State) : Evolves s (actStatusQuery p tag s) := by
  refine checkRange_evolves _ p tag _ s ?_
  simp only []
  split
  · exact (answer_evolves _ _ _ _ s).trans (clearCounts_evolves _)
  · exact answer_evolves _ _ _ _ s

theorem actWriteProfile_evolves (p : List Byte) (tag : Tag) (s : State) : Evolves s (actWriteProfile p tag s) :=
  checkRange_evolves _ p tag _ s (loadAnswered_evolves p tag _ _ s _ rfl rfl rfl)

theorem actReadProfile_evolves (parity : Option ParityRead) (p : List Byte) (tag : Tag) (s : State) :
    Evolves s (actReadProfile parity p tag s) := by
  refine checkRange_evolves _ p tag _ s ?_
  simp only []
  split
  · exact latch_evolves _ _
  · exact answer_evolves _ _ _ _ s

theorem actLoadCodeTable_evolves (p : List Byte) (tag : Tag) (s : State) : Evolves s (actLoadCodeTable p tag s) := by
  refine checkQuiescedLoad_evolves p tag _ s (checkRange_evolves _ p tag _ s ?_)
  simp only []
  split
  · exact loadAnswered_evolves p tag _ _ s _ rfl rfl rfl
  · exact answer_evolves _ _ _ _ s

theorem actLoadToneCurve_evolves (p : List Byte) (tag : Tag) (s : State) : Evolves s (actLoadToneCurve p tag s) :=
  checkQuiescedLoad_evolves p tag _ s
    (checkRange_evolves _ p tag _ s (loadAnswered_evolves p tag _ _ s _ rfl rfl rfl))

theorem actLoadRule_evolves (p : List Byte) (tag : Tag) (s : State) : Evolves s (actLoadRule p tag s) :=
  checkQuiescedLoad_evolves p tag _ s
    (checkRange_evolves _ p tag _ s (loadAnswered_evolves p tag _ _ s _ rfl rfl rfl))

theorem actSetStreamRole_evolves (parity : Option ParityRead) (p : List Byte) (tag : Tag) (s : State)
    (h : ¬ workless s) : Evolves s (actSetStreamRole parity p tag s) := by
  have mapped (stk : Stk) : Evolves s { s with stk := stk } := .ofStk s _ (fun q => absurd q h)
  refine checkRange_evolves _ p tag _ s ?_
  simp only []
  split
  · exact latch_evolves _ _
  · split
    · exact ((mapped _).trans (answer_evolves _ _ _ _ _)).trans (pushNotice_evolves _ _)
    · exact ((mapped _).trans (answer_evolves _ _ _ _ _)).trans (pushNotice_evolves _ _)
    · exact (mapped _).trans (answer_evolves _ _ _ _ _)
    · exact (mapped _).trans (answer_evolves _ _ _ _ _)

@[simp] theorem pushNotice_quiesce (n : Notice) (s : State) : (pushNotice n s).dru.quiesce = s.dru.quiesce := by
  unfold pushNotice; split <;> [rfl; (split <;> rfl)]

@[simp] theorem pushNotice_owed (n : Notice) (s : State) : (pushNotice n s).dru.owed = s.dru.owed := by
  unfold pushNotice; split <;> [rfl; (split <;> rfl)]

@[simp] theorem answer_quiesce (p : List Byte) (tag : Tag) (status : Status) (fields : List Byte) (s : State) :
    (answer p tag status fields s).dru.quiesce = s.dru.quiesce := pushNotice_quiesce _ s

@[simp] theorem answer_owed (p : List Byte) (tag : Tag) (status : Status) (fields : List Byte) (s : State) :
    (answer p tag status fields s).dru.owed = s.dru.owed := pushNotice_owed _ s

/-- A grant owed while fewer than four are owed, and none outside QUIESCING (R183, R184). -/
theorem actQuiesce_evolves (p : List Byte) (tag : Tag) (s : State) (h : ¬ workless s) : Evolves s (actQuiesce p tag s) := by
  have asked := answer_evolves p tag .accepted [] s
  have busy : ¬ workless (answer p tag .accepted [] s) := by simpa [workless] using h
  unfold actQuiesce
  split
  · exact answer_evolves _ _ _ _ s
  case isFalse room =>
    simp only []
    split
    case isTrue empty =>
      refine (asked.trans (.ofDru _ _ (fun w => absurd w busy) (fun b => ?_))).trans (pushNotices_evolves _ _)
      exact ⟨b.1, b.2.1, fun _ => b.2.2.1 (by simpa using empty.2)⟩
    · split
      · exact asked.trans (pushNotices_evolves _ _)
      · refine asked.trans (.ofDru _ _ (fun w => absurd w busy) (fun b => ⟨b.1, ?_, fun q => absurd rfl q⟩))
        have few : s.dru.owed.length < Config.owedCapacity := by
          by_cases q : s.dru.quiesce = .quiescing
          · simpa [q] using room
          · have none : s.dru.owed = [] := by simpa using b.2.2.1 (by simpa using q)
            simp [none, Config.owedCapacity]
        simpa using few

theorem actResume_evolves (p : List Byte) (tag : Tag) (s : State) : Evolves s (actResume p tag s) :=
  ((answer_evolves _ _ _ _ s).trans (dropGrants_evolves _ .running (fun _ _ => rfl))).trans (pushNotices_evolves _ _)

/-- Every held slot goes to SCRUBBING (R57). -/
theorem discardSlots_evolves (s : State) (x : Fmc) (hs : x.slots = (discardSlots s.fmc).slots) (hr : x.ready = [])
    (ho : x.scrubOrder = (discardSlots s.fmc).scrubOrder) (ht : x.tally = s.fmc.tally) (hm : x.mem = s.fmc.mem) :
    Evolves s { s with fmc := x } := by
  have notHeld (k : Slot) : isHeldSlot x.slots[k] = false := by
    rw [hs]
    exact discardSlots_notHeld s.fmc k
  refine .ofFmc s x (by rw [ht]) (fun _ _ => ⟨hr, notHeld⟩)
    (fun a => discardSlots_accounted a hs ho) (fun m => by rw [hm]; exact m) (fun w k hk a h1 h2 => ?_)
  have free : s.fmc.slots[k] = .free := by
    simp only [hs, discardSlots_slot] at hk
    split at hk
    · cases hk
    · exact hk
  simpa only [hm] using w.2.2 k free a h1 h2

theorem applyPendings_evolve (sts : List Stream) (s : State) : Evolves s (sts.foldl (fun s st => applyPending st s) s) := by
  induction sts generalizing s with
  | nil => exact .refl s
  | cons st sts ih => exact (applyPending_evolves st s).trans (ih _)

@[simp] theorem applyPendings_flm (sts : List Stream) (s : State) :
    (sts.foldl (fun s st => applyPending st s) s).flm = s.flm := by
  induction sts generalizing s with
  | nil => rfl
  | cons st sts ih => exact (ih _).trans (by simp)

/-- The work dropped at a RESTART, before the pacing flag is evaluated (R188). -/
def workDropped (s : State) : State :=
  { s with
    stk := { s.stk with contexts := Vector.replicate 16 StreamCtx.idle, items := Vector.replicate 32 none }
    scu := Vector.replicate 48 none
    fmc := { discardSlots s.fmc with mark := s.sus.working.mark }
    cnv := none
    rel := { s.rel with queues := Vector.replicate 16 [], release := none }
    dru := { s.dru with quiesce := .running, owed := [], duty := 0 } }

theorem actRestart_eq (p : List Byte) (tag : Tag) (s : State) :
    actRestart p tag s = pushNotices (grantNotices .withdrawn s.dru.owed) (evalPacing (workDropped
      ((List.finRange 16).foldl (fun s st => applyPending st s)
        (answer p tag .done
          [byteOf (32 - freeItems s.stk), byteOf (fencesHeld s.rel), byteOf s.dru.owed.length] s)))) := rfl

theorem workDropped_evolves (s : State) (h : ¬ workless s) : Evolves s (workDropped s) := by
  have slots : Evolves s { s with fmc := { discardSlots s.fmc with mark := s.sus.working.mark } } := by
    apply discardSlots_evolves <;> simp only [discardSlots]
  have busy (u : State) (same : u.flm = s.flm := by rfl) : ¬ workless u := by simpa [workless, same] using h
  refine slots.trans ?_
  refine Evolves.trans (.ofStk _ { s.stk with contexts := Vector.replicate 16 StreamCtx.idle, items := Vector.replicate 32 none }
    (fun w => absurd w (busy _))) ?_
  refine Evolves.trans (.ofScu _ (Vector.replicate 48 none) (fun _ _ k => by simp) (fun _ k c hc => by simp at hc)) ?_
  refine Evolves.trans (.ofCnv _ none (fun _ _ => rfl)) ?_
  refine Evolves.trans (.ofRel _ { s.rel with queues := Vector.replicate 16 [], release := none } (fun w => absurd w (busy _))
    (fun _ st => by simp [fenceCount])) ?_
  exact .ofDru _ _ (fun w => absurd w (busy _)) (fun b => ⟨b.1, by simp, fun _ => rfl⟩)

theorem actRestart_evolves (p : List Byte) (tag : Tag) (s : State) (h : ¬ workless s) : Evolves s (actRestart p tag s) := by
  rw [actRestart_eq]
  refine Evolves.trans ?_ (pushNotices_evolves _ _)
  refine Evolves.trans ?_ (evalPacing_evolves _)
  refine Evolves.trans ?_ (workDropped_evolves _ (by simpa [workless] using h))
  exact (answer_evolves _ _ _ _ s).trans (applyPendings_evolve _ _)

theorem actSetPacing_evolves (p : List Byte) (tag : Tag) (s : State) : Evolves s (actSetPacing p tag s) := by
  refine checkRange_evolves _ p tag _ s (Evolves.trans ?_ (answer_evolves _ _ _ _ _))
  refine Evolves.trans ?_ (evalPacing_evolves _)
  refine Evolves.trans (druTables_evolves s { s.dru with duty := param p 1 1 } rfl rfl rfl) ?_
  exact .ofFmc _ _ le_rfl (fun _ w => ⟨w.ready, w.notHeld⟩) id id (fun w => w.2.2)

theorem actFence_evolves (p : List Byte) (tag : Tag) (s : State) (h : ¬ workless s) : Evolves s (actFence p tag s) := by
  refine checkRange_evolves _ p tag _ s ?_
  simp only []
  split
  · exact answer_evolves _ _ _ _ s
  case isFalse few =>
    refine Evolves.trans ?_ (relTry_evolves _ _)
    refine Evolves.trans ?_ (passFences_evolves _ _)
    refine (answer_evolves p tag .accepted [] s).trans (relQueue_evolves _ _ _ _ _ ?_ (fun _ => ?_))
    · exact fun w => absurd w (by simpa [workless] using h)
    · rw [fenceCount_append_fence]
      simpa using few

theorem actMarkLinkError_evolves (p : List Byte) (tag : Tag) (s : State) : Evolves s (actMarkLinkError p tag s) :=
  (Evolves.ofElu s { s.elu with markError := true } id id).trans (answer_evolves _ _ _ _ _)

theorem actWriteStartUp_evolves (p : List Byte) (tag : Tag) (s : State) : Evolves s (actWriteStartUp p tag s) := by
  refine checkRange_evolves _ p tag _ s ?_
  simp only []
  split
  · exact answer_evolves _ _ _ _ s
  · refine Evolves.trans ?_ (answer_evolves _ _ _ _ _)
    exact .ofSus s _ ⟨rfl, rfl⟩

theorem actReadStartUp_evolves (p : List Byte) (tag : Tag) (s : State) : Evolves s (actReadStartUp p tag s) := by
  unfold actReadStartUp
  split <;> exact answer_evolves _ _ _ _ s

theorem actByCode_evolves (p : List Byte) (tag : Tag) (s : State) (h : ¬ workless s) : Evolves s (actByCode p tag s) := by
  unfold actByCode
  split
  · exact actStatusQuery_evolves _ _ s
  · exact actWriteProfile_evolves _ _ s
  · exact actReadProfile_evolves _ _ _ s
  · exact actLoadCodeTable_evolves _ _ s
  · exact actLoadToneCurve_evolves _ _ s
  · exact actLoadRule_evolves _ _ s
  · exact actSetStreamRole_evolves _ _ _ s h
  · exact actQuiesce_evolves _ _ s h
  · exact actResume_evolves _ _ s
  · exact actRestart_evolves _ _ s h
  · exact actSetPacing_evolves _ _ s
  · exact actFence_evolves _ _ s h
  · exact actMarkLinkError_evolves _ _ s
  · exact actWriteStartUp_evolves _ _ s
  · exact actReadStartUp_evolves _ _ s
  · exact .refl s

end Sys2Proof.Proofs
end

section
/-! The events of the egress link, the start-up and the store write evolve the part. -/

namespace Sys2Proof.Proofs
open Sys2Proof.Machine Sys2Proof.Safety Sys2Proof.Laws

/-! ## The egress link -/

theorem fifoSound_tail {s : State} {x : Elu} {source : Source} (f : FifoSound s)
    (hf : x.fifo = if source = .passThrough then s.elu.fifo.tail else s.elu.fifo)
    (hl : ∀ b, x.link = .sending .passThrough b → x.fifo ≠ []) : FifoSound { s with elu := x } := by
  obtain ⟨few, apart, short, -⟩ := f
  have sub : x.fifo.Sublist s.elu.fifo := by
    rw [hf]
    split
    · exact List.tail_sublist _
    · exact List.Sublist.refl _
  exact ⟨sub.length_le.trans few, (sub.map _).nodup apart, fun p hp => short p (sub.subset hp), hl⟩

/-- A record that starts at the end of the one before it, whose entry, if it was a passed one, is freed. -/
theorem sendNext_evolves (s : State) (source : Source) (x : Elu) (src : Source) (b : List Byte) (hp : s.flm.part ≠ .held)
    (hf : x.fifo = if source = .passThrough then s.elu.fifo.tail else s.elu.fifo) (hl : x.link = .sending src b)
    (hs : src = .passThrough → x.fifo ≠ []) : Evolves s { s with elu := x } := by
  refine .ofElu s x (fun _ => LinkSound.send x src b hl hp) (fun f => fifoSound_tail f hf (fun c hc => hs ?_))
  rw [hl] at hc
  injection hc

theorem endRecord_bypass_evolves (source : Source) (s : State) (h : s.flm.part = .bypass) : Evolves s (endRecord source s) := by
  refine .ofElu s _ (fun _ => ?_) (fun f => fifoSound_tail f rfl (by simp))
  simp [LinkSound, h]

theorem egressBoundary_evolves (parity : Option ParityRead) (source : Source) (bytes : List Byte) (s : State)
    (sending : s.elu.link = .sending source bytes) : Evolves s (egressBoundary parity (endRecord source s)) := by
  unfold egressBoundary
  split
  case h_1 held =>
    refine .ofElu s _ (fun l => ?_) (fun f => fifoSound_tail f rfl (by simp))
    have idle := l.1.mpr held
    simp [sending] at idle
  case h_2 bypass =>
    refine (endRecord_bypass_evolves source s bypass).trans (bypassBoundary_evolves _ ?_)
    rw [show (endRecord source s).flm.part = .bypass from bypass]
    decide
  case h_3 notHeld _ =>
    have filled : Evolves s (startFill (endRecord source s)) := by
      exact sendNext_evolves s source _ .fill _ notHeld rfl rfl (by simp)
    split
    · exact filled
    · split
      · unfold grantPass
        split
        case h_1 found _ empty =>
          have ready := List.find?_some found
          simp [hasReady, empty] at ready
        case h_2 p ps e => exact sendNext_evolves s source _ .passThrough _ notHeld rfl rfl (by simp [e])
      · unfold grantNotice
        split
        case h_1 found _ empty =>
          have ready := List.find?_some found
          simp [hasReady, empty] at ready
        case h_2 n ns e =>
          have head : s.dru.notices = n :: ns := e
          refine (popNotice_evolves head).trans ?_
          exact sendNext_evolves _ source _ .notices _ notHeld rfl rfl (by simp)
      case h_3 found =>
        have ready := List.find?_some found
        unfold grantRelease
        split
        case h_1 empty => simp [hasReady, empty] at ready
        case h_2 x hx =>
          split
          case h_1 empty => simp [hasReady, hx, empty] at ready
          case h_2 r _ =>
            have sent : Evolves s { endRecord source s with
                elu := { (endRecord source s).elu with position := .release, link := .sending .release (recordBytes r) } } :=
              sendNext_evolves s source _ .release _ notHeld rfl rfl (by simp)
            simp only []
            split
            · exact sent.trans (completeRelease_evolves _ _ _)
            · exact sent.trans (offerNext_evolves _ _ _ (by simp [hx]))
      · exact filled

theorem execEgressRecordEnd_evolves (parity : Option ParityRead) (s : State) :
    Evolves s (nextOr s (execEgressRecordEnd parity s)) := by
  unfold execEgressRecordEnd nextOr
  simp only []
  split
  case h_1 source bytes sending => exact egressBoundary_evolves parity source bytes s sending
  · exact .refl s

theorem holdInput_evolves (s : State) (level : Bool) : Evolves s { s with elu := { s.elu with holdInput := level } } :=
  .ofElu s _ id id

theorem boundary_evolves (parity : Option ParityRead) (s : State) : Evolves s (egressBoundary parity s) := by
  unfold egressBoundary
  split
  · exact .refl s
  case h_2 bypass => exact bypassBoundary_evolves s (by simp [bypass])
  case h_3 notHeld _ =>
    split
    · exact startFill_evolves s notHeld
    · split
      · exact grantPass_evolves s notHeld
      · exact grantNotice_evolves s notHeld
      · exact grantRelease_evolves parity s notHeld
      · exact startFill_evolves s notHeld

theorem execEgressHoldRelease_evolves (s : State) : Evolves s (nextOr s (execEgressHoldRelease s)) := by
  unfold execEgressHoldRelease nextOr
  simp only []
  split
  · exact (holdInput_evolves s false).trans (boundary_evolves none _)
  · exact holdInput_evolves s false

/-! ## Reads of the pass-through region and of the verify -/

/-- A link that sends a record goes on sending it through the read of a word, a latch included (R206). -/
theorem wakeLink_of_sending {s : State} (h : s.elu.link ≠ .between) : wakeLink s = s := by
  simp [wakeLink, h]

theorem latch_elu {cause : FaultCause} {s : State} (h : s.elu.link ≠ .between) : (latch cause s).elu = s.elu := by
  rcases latch_cases cause s with same | ⟨-, -, t, made, -, -, -, -, elu, -⟩
  · rw [same]
  · rw [made, wakeLink_of_sending (elu ▸ h), elu]

theorem readWord_elu (w : Nat) (now : ReadResult) {s : State} (h : s.elu.link ≠ .between) :
    (readWord w now s).1.elu = s.elu := by
  unfold readWord
  simp only []
  rcases countResult_cases (s.fmc.mem.readResult w now)
    { s with fmc := { s.fmc with mem := s.fmc.mem.noteDamage w (s.fmc.mem.readResult w now) } } with
    ⟨-, e⟩ | ⟨-, e⟩ | ⟨-, t, rfl, e⟩ <;> rw [e]
  split
  · exact latch_elu h
  · rfl

theorem execPassThroughRead_evolves (word : Nat) (read : ReadResult) (s : State) :
    Evolves s (nextOr s (execPassThroughRead word read s)) := by
  unfold execPassThroughRead
  split
  case h_1 bytes p ps sending held =>
    split
    · exact .refl s
    · have one := readWord_evolves (passEntryBase p.entry / 8 + word) read s
      have elu := readWord_elu (passEntryBase p.entry / 8 + word) read (s := s) (by simp [sending])
      simp only [nextOr]
      split
      · refine one.trans (.ofElu _ _ (fun l => ?_) (fun f => ?_))
        · have idle : (readWord (passEntryBase p.entry / 8 + word) read s).1.flm.part ≠ .held := by
            simp [← l.1, elu, sending]
          exact LinkSound.send _ _ _ rfl idle
        · exact passBytes_sound f rfl (by simp [elu, held])
      · exact one
  · exact .refl s

theorem verify_evolves (s : State) (v : Option Bool) : Evolves s { s with fmc := { s.fmc with verify := v } } :=
  .ofFmc s _ le_rfl (fun _ w => ⟨w.ready, w.notHeld⟩) id id (fun w => w.2.2)

theorem execVerifyRead_evolves (word : Nat) (read : ReadResult) (nonZero : Bool) (s : State) :
    Evolves s (nextOr s (execVerifyRead word read nonZero s)) := by
  unfold execVerifyRead
  split
  · exact .refl s
  · split
    · exact .refl s
    · simp only [nextOr]
      split
      · exact readWord_evolves _ _ s
      · exact (readWord_evolves _ _ s).trans (verify_evolves _ _)

/-! ## The start-up scrub and the store write -/

/-- The head of the scrub order becomes FREE, wiped (R54). -/
theorem scrubbed_evolves (s : State) (k : Slot) (rest : List Slot) (v : Option Bool) (h : s.fmc.scrubOrder = k :: rest) :
    Evolves s { s with fmc := { s.fmc with
      mem := s.fmc.mem.scrub (greyBase k) Config.slotBytes, slots := s.fmc.slots.set k .free, scrubOrder := rest
      verify := v } } := by
  have slotAt (j : Slot) (x : SlotState) (e : (s.fmc.slots.set k .free)[j] = x) : j = k ∧ x = .free ∨ j ≠ k ∧ s.fmc.slots[j] = x := by
    simp only [Fin.getElem_fin, Vector.getElem_set] at e
    split at e
    case isTrue same => exact .inl ⟨Fin.ext same.symm, e.symm⟩
    case isFalse other => exact .inr ⟨fun same => other (by rw [same]), e⟩
  refine .ofFmc s _ le_rfl (fun _ w => ⟨w.ready, fun j => ?_⟩) (fun a => ⟨fun j hj => ?_, fun j hj => ?_⟩)
    (fun m => wf_scrub m _ _) (fun w j hj b h1 h2 => ?_)
  · rcases slotAt j _ rfl with ⟨-, free⟩ | ⟨-, same⟩
    · simp only [free, isHeldSlot]
    · simpa only [← same] using w.notHeld j
  · rcases slotAt j _ hj with ⟨-, free⟩ | ⟨other, same⟩
    · cases free
    · have waits := a.1 j same
      rw [h] at waits
      exact (List.mem_cons.mp waits).resolve_left other
  · rcases slotAt j _ hj with ⟨-, free⟩ | ⟨-, same⟩
    · cases free
    · exact a.2 j same
  · simp only [read_scrub]
    split
    · rfl
    case isFalse outside =>
      rcases slotAt j _ hj with ⟨same, -⟩ | ⟨-, same⟩
      · subst same
        exact absurd ⟨h1, by simpa [greyBase, Nat.add_mul] using h2⟩ outside
      · exact w.2.2 j same b h1 h2

theorem execScrubComplete_evolves (s : State) : Evolves s (nextOr s (execScrubComplete s)) := by
  unfold execScrubComplete nextOr
  simp only []
  split
  · exact .refl s
  · split
    · exact .refl s
    case h_2 k rest order => exact (scrubbed_evolves s k rest _ order).trans (evalPacing_evolves _)

theorem execEraseComplete_evolves (s : State) : Evolves s (nextOr s (execEraseComplete s)) := by
  unfold execEraseComplete nextOr
  simp only []
  split
  · exact .ofSus s _ ⟨rfl, rfl⟩
  · exact .refl s

theorem execStoreWriteComplete_evolves (s : State) : Evolves s (nextOr s (execStoreWriteComplete s)) := by
  unfold execStoreWriteComplete nextOr
  simp only []
  split
  · refine Evolves.trans ?_ (pushNotice_evolves _ _)
    exact .ofSus s _ ⟨rfl, rfl⟩
  · exact .refl s

end Sys2Proof.Proofs
end

section
/-! Every command but the two of pin reset and the end of the verify evolves the part. -/

namespace Sys2Proof.Proofs
open Sys2Proof.Machine Sys2Proof.Safety Sys2Proof.Laws

theorem anyDirective_evolves (station : Fin 32) (rec : Carried) (s : State) :
    Evolves s (directiveArrives station rec actByCode s) :=
  directiveArrives_evolves _ _ _ s (fun u hp => actByCode_evolves _ _ u (not_workless_of_operating hp))

theorem anyRecordArrives_evolves (r : Record) (s : State) : Evolves s (anyRecordArrives r s) := by
  unfold anyRecordArrives
  simp only []
  split
  · exact recordArrives_evolves r id s (fun _ u _ => .refl u)
  · split
    · exact execFill_evolves _ _ s
    · exact execItemOpen_evolves _ _ _ s
    · exact execFaceOpen_evolves _ _ _ s
    · exact execStrip_evolves _ _ _ s
    · exact execItemClose_evolves _ _ _ s
    · exact execItemCancel_evolves _ _ _ s
    · exact execProducedRecord_evolves _ _ _ s
    · exact execProducedRecord_evolves _ _ _ s
    · exact execProducedRecord_evolves _ _ _ s
    · exact anyDirective_evolves _ _ s
    · exact execNotice_evolves _ _ s
    · exact unknownArrives_evolves _ s

theorem execHeaderFault_evolves (bytes : List Byte) (s : State) : Evolves s (nextOr s (execHeaderFault bytes s)) := by
  unfold execHeaderFault nextOr
  simp only []
  split
  · exact .refl s
  · split
    · exact (endReceiving_evolves s).trans (countHeaderFault_evolves _)
    · exact anyRecordArrives_evolves _ s

theorem execUnknownKind_evolves (kind target : Byte) (rec : Carried) (s : State) :
    Evolves s (nextOr s (execUnknownKind kind target rec s)) := by
  unfold execUnknownKind nextOr
  simp only []
  split
  · exact anyRecordArrives_evolves _ s
  · exact unknownArrives_evolves _ s

/-- The commands that start the part anew: they set what no other command may change. -/
def restarts (c : Instr) : Prop := c = .pinResetAssert ∨ c = .pinResetRelease ∨ c = .verifyComplete

/-- What every command but those three keeps. -/
theorem exec_evolves (c : Instr) (s : State) (h : ¬ restarts c) : Evolves s (nextOr s (exec c s)) := by
  cases c with
  | pinResetAssert => exact absurd (.inl rfl) h
  | pinResetRelease => exact absurd (.inr (.inl rfl)) h
  | verifyComplete => exact absurd (.inr (.inr rfl)) h
  | startOfRecord => exact execStartOfRecord_evolves s
  | framingFault cause => exact execFramingFault_evolves cause s
  | headerFault bytes => exact execHeaderFault_evolves bytes s
  | itemOpen st rec parity => exact execItemOpen_evolves st rec parity s
  | faceOpen st rec parity => exact execFaceOpen_evolves st rec parity s
  | strip st rec parity => exact execStrip_evolves st rec parity s
  | itemClose st rec parity => exact execItemClose_evolves st rec parity s
  | itemCancel st rec parity => exact execItemCancel_evolves st rec parity s
  | stallExpiry st parity => exact execStallExpiry_evolves st parity s
  | fill target rec => exact execFill_evolves target rec s
  | producedRecord kind st rec => exact execProducedRecord_evolves kind st rec s
  | notice station rec => exact execNotice_evolves station rec s
  | unknownKind kind target rec => exact execUnknownKind_evolves kind target rec s
  | directiveOtherStation station rec => exact anyDirective_evolves station rec s
  | directiveUnknownCode station rec => exact anyDirective_evolves station rec s
  | statusQuery d => exact directiveArrives_evolves _ _ _ s (fun u _ => actStatusQuery_evolves _ _ u)
  | writeProfile d => exact directiveArrives_evolves _ _ _ s (fun u _ => actWriteProfile_evolves _ _ u)
  | readProfile d parity => exact directiveArrives_evolves _ _ _ s (fun u _ => actReadProfile_evolves _ _ _ u)
  | loadCodeTable d => exact directiveArrives_evolves _ _ _ s (fun u _ => actLoadCodeTable_evolves _ _ u)
  | loadToneCurve d => exact directiveArrives_evolves _ _ _ s (fun u _ => actLoadToneCurve_evolves _ _ u)
  | loadRule d => exact directiveArrives_evolves _ _ _ s (fun u _ => actLoadRule_evolves _ _ u)
  | setStreamRole d =>
    exact directiveArrives_evolves _ _ _ s (fun u hp => actSetStreamRole_evolves _ _ _ u (not_workless_of_operating hp))
  | quiesce d => exact directiveArrives_evolves _ _ _ s (fun u hp => actQuiesce_evolves _ _ u (not_workless_of_operating hp))
  | resume d => exact directiveArrives_evolves _ _ _ s (fun u _ => actResume_evolves _ _ u)
  | restart d => exact directiveArrives_evolves _ _ _ s (fun u hp => actRestart_evolves _ _ u (not_workless_of_operating hp))
  | setPacing d => exact directiveArrives_evolves _ _ _ s (fun u _ => actSetPacing_evolves _ _ u)
  | fence d => exact directiveArrives_evolves _ _ _ s (fun u hp => actFence_evolves _ _ u (not_workless_of_operating hp))
  | markLinkError d => exact directiveArrives_evolves _ _ _ s (fun u _ => actMarkLinkError_evolves _ _ u)
  | writeStartUp d => exact directiveArrives_evolves _ _ _ s (fun u _ => actWriteStartUp_evolves _ _ u)
  | readStartUp d => exact directiveArrives_evolves _ _ _ s (fun u _ => actReadStartUp_evolves _ _ u)
  | activityTimerExpiry => exact execActivityTimerExpiry_evolves s
  | pacingEighth => exact execPacingEighth_evolves s
  | scuInputRow slot parity => exact execScuInputRow_evolves slot parity s
  | lastRowWriteComplete slot parity => exact execLastRowWriteComplete_evolves slot parity s
  | cnvGreyRow reads parity => exact execCnvGreyRow_evolves reads parity s
  | attemptFit parity => exact execAttemptFit_evolves parity s
  | evaluationEnd parity => exact execEvaluationEnd_evolves parity s
  | codedSegmentComposed reads parity => exact execCodedSegmentComposed_evolves reads parity s
  | egressRecordEnd parity => exact execEgressRecordEnd_evolves parity s
  | egressHoldAssert => exact holdInput_evolves s true
  | egressHoldRelease => exact execEgressHoldRelease_evolves s
  | scrubComplete => exact execScrubComplete_evolves s
  | eraseComplete => exact execEraseComplete_evolves s
  | storeWriteComplete => exact execStoreWriteComplete_evolves s
  | verifyRead word read nonZero => exact execVerifyRead_evolves word read nonZero s
  | passThroughRead word read => exact execPassThroughRead_evolves word read s

theorem evolves_of_exec {c : Instr} {s t : State} (h : ¬ restarts c) (e : exec c s = .next t) : Evolves s t := by
  simpa [e, nextOr] using exec_evolves c s h

end Sys2Proof.Proofs
end

section
/-! The two commands of pin reset and the end of the verify, and the invariants that every step keeps. -/

namespace Sys2Proof.Proofs
open Sys2Proof.Machine Sys2Proof.Safety Sys2Proof.Laws

/-! ## Pin reset and the end of the verify -/

/-- The part as pin reset leaves it: work in flight gone, the rest as it stood (R196). -/
structure HeldInReset (s t : State) : Prop where
  flm : t.flm = { part := .held, latch := s.flm.latch }
  link : t.elu.link = .idleCharacters
  fifo : t.elu.fifo = s.elu.fifo
  dru : t.dru = s.dru
  queues : t.rel.queues = s.rel.queues
  scu : ∀ k : Slot, t.scu[k] = none
  slots : t.fmc = { s.fmc with verify := none }
  settings : t.sus.working = s.sus.working ∧ t.sus.storeValid = s.sus.storeValid
  pending : t.pending = s.pending

/-- PIN_RESET_ASSERT does nothing in reset and holds the part otherwise (R196). -/
theorem execPinResetAssert_cases {s t : State} (e : exec .pinResetAssert s = .next t) : t = s ∨ HeldInReset s t := by
  change execPinResetAssert s = .next t at e
  unfold execPinResetAssert at e
  injection e with e
  split at e
  · exact .inl e.symm
  · subst e
    exact .inr ⟨rfl, rfl, rfl, rfl, rfl, fun k => by simp, rfl, ⟨rfl, rfl⟩, rfl⟩

/-- PIN_RESET_RELEASE does nothing outside reset and starts the part in it (R197). -/
theorem execPinResetRelease_cases {s t : State} (e : exec .pinResetRelease s = .next t) :
    t = s ∨ s.flm.part = .held ∧ t = released s := by
  change execPinResetRelease s = .next t at e
  unfold execPinResetRelease at e
  injection e with e
  split at e
  case isTrue held => exact .inr ⟨held, e.symm⟩
  case isFalse => exact .inl e.symm

/-- What the end of a verify can do (R195, R199). -/
theorem execVerifyComplete_cases {s t : State} (e : exec .verifyComplete s = .next t) :
    Evolves s t ∨ s.flm.part = .starting ∧ s.fmc.verify = some true ∧
      ∃ n, t = pushNotice n { s with fmc := { s.fmc with verify := none }, flm := { s.flm with part := .operating } } := by
  change execVerifyComplete s = .next t at e
  unfold execVerifyComplete at e
  injection e with e
  split at e
  · exact .inl (e ▸ .refl s)
  case h_2 passed running =>
    have ended := verify_evolves s none
    simp only [] at e
    split at e
    · exact .inl (e ▸ ended)
    case isFalse starting =>
      split at e
      case isTrue ok =>
        subst ok
        exact .inr ⟨by simpa using starting, running, _, e.symm⟩
      · exact .inl (e ▸ ended.trans (latch_evolves _ _))

theorem reset_slot (k : Slot) : State.reset.fmc.slots[k] = .scrubbing := Vector.getElem_replicate k.isLt

theorem reset_mapEntry (st : Stream) : State.reset.stk.map[st] = { role := .pass, pending := none } :=
  Vector.getElem_replicate st.isLt

theorem reset_noWork : NoWork State.reset where
  items ix := Vector.getElem_replicate ix.isLt
  contexts st := Vector.getElem_replicate st.isLt
  pendingRole st := congrArg MapEntry.pending (reset_mapEntry st)
  scaling k := Vector.getElem_replicate k.isLt
  converting := rfl
  release := rfl
  queues st := Vector.getElem_replicate st.isLt
  ready := rfl
  notHeld k := congrArg isHeldSlot (reset_slot k)
  running := rfl
  owed := rfl

@[simp] theorem mapOfMask_entry (mask : BitVec 16) (st : Stream) :
    (mapOfMask mask)[st] = { role := if mask.getLsbD st.val then .own else .pass, pending := none } := by
  simp [mapOfMask]

/-- The part released from reset is a reset part, but for what it takes from the store (R197). -/
theorem released_noWork (s : State) : NoWork (released s) :=
  { reset_noWork with
    items := reset_noWork.items
    contexts := reset_noWork.contexts
    pendingRole := fun st =>
      congrArg MapEntry.pending (mapOfMask_entry ((readStore s.sus.cells).getD Settings.blank).mask st) }

theorem released_slot (s : State) (k : Slot) : (released s).fmc.slots[k] = .scrubbing := reset_slot k

/-- An invariant of a part state that every operation keeps is kept by every step, if the three commands of start-up keep it. -/
theorem step_keeps {P : State → Prop} (pending : ∀ s rest, P s → P { s with pending := rest })
    (evolves : ∀ s t, Evolves s t → P s → P t) (assert : ∀ s t, HeldInReset s t → P s → P t)
    (release : ∀ s, s.flm.part = .held → P s → P (released s))
    (verified : ∀ s, s.flm.part = .starting → P s →
      P { s with fmc := { s.fmc with verify := none }, flm := { s.flm with part := .operating } }) :
    ∀ s t : State, P s → step s = .next t → P t := by
  intro s t hs e
  unfold step at e
  split at e
  · injection e with e
    exact e ▸ hs
  case h_2 c rest _ =>
    have start := pending s rest hs
    generalize ({ s with pending := rest } : State) = u at *
    by_cases h : restarts c
    · rcases h with rfl | rfl | rfl
      · rcases execPinResetAssert_cases e with same | held
        · exact same ▸ start
        · exact assert u t held start
      · rcases execPinResetRelease_cases e with same | ⟨held, made⟩
        · exact same ▸ start
        · exact made ▸ release u held start
      · rcases execVerifyComplete_cases e with ev | ⟨starting, -, n, made⟩
        · exact evolves u t ev start
        · exact made ▸ evolves _ _ (pushNotice_evolves n _) (verified u starting start)
    · exact evolves u t (evolves_of_exec h e) start

/-! ## The statements -/

/-- Settles O5: every operation keeps the canonical form, and the commands of start-up leave the memory's contents. -/
theorem memoryStaysCanonical : Obligations.MemoryStaysCanonical :=
  step_keeps (fun _ _ m => m) (fun _ _ e => e.mem)
    (fun s t h m => by rw [MemoryCanonical, h.slots]; exact m) (fun _ _ m => m) (fun _ _ m => m)

/-- Settles O6: a part held in reset or OPERATING may have work, and the release of pin reset leaves none. -/
theorem workStaysInOperating : Obligations.WorkStaysInOperating :=
  step_keeps (fun _ _ w p => { w p with }) (fun _ _ e => e.work)
    (fun s t h _ p => by simp [h.flm] at p) (fun s _ _ _ => released_noWork s) (fun _ _ _ p => by simp at p)

/-- Settles O7: the link idles from the assertion of pin reset to its release, where the first FILL starts. -/
theorem linkStaysSound : Obligations.LinkStaysSound :=
  step_keeps (fun _ _ l => l) (fun _ _ e => e.link)
    (fun s t h _ => by simp [LinkSound, h.flm, h.link])
    (fun s _ _ => by
      have part : (released s).flm.part = .starting := rfl
      simp [LinkSound, part])
    (fun s starting l => by
      obtain ⟨idle, sends⟩ := l
      have busy := sends (.inl starting)
      refine ⟨?_, fun _ => busy⟩
      simpa [starting] using idle)

/-- Settles O8: the FIFO is kept in reset and empty after it. -/
theorem fifoStaysSound : Obligations.FifoStaysSound :=
  step_keeps (fun _ _ f => f) (fun _ _ e => e.fifo)
    (fun s t h f => by
      obtain ⟨few, apart, short, -⟩ := f
      rw [FifoSound, h.fifo, h.link]
      exact ⟨few, apart, short, fun _ e => by cases e⟩)
    (fun s _ _ => by
      have fifo : (released s).elu.fifo = [] := rfl
      simp [FifoSound, fifo])
    (fun _ _ f => f)

/-- Settles O9: the queues are kept in reset and empty after it. -/
theorem queuesStayBounded : Obligations.QueuesStayBounded :=
  step_keeps (fun _ _ q => q) (fun _ _ e => e.queues)
    (fun s t h q => by rw [QueuesBounded, h.dru, h.queues]; exact q)
    (fun s _ _ => by
      have dru : (released s).dru.notices = [] ∧ (released s).dru.owed = [] := ⟨rfl, rfl⟩
      refine ⟨by simp [dru], by simp [dru], fun _ => rfl, fun st => ?_⟩
      rw [(released_noWork s).queues st]
      exact Nat.zero_le _)
    (fun _ _ q => q)

/-- Settles O10: at the release of pin reset every slot is SCRUBBING and stands in the scrub order. -/
theorem slotsStayAccounted : Obligations.SlotsStayAccounted :=
  step_keeps (fun _ _ a => a) (fun _ _ e => e.slots)
    (fun s t h a => by rw [SlotsAccounted, h.slots]; exact a)
    (fun s _ _ => by
      refine ⟨fun k _ => List.mem_finRange k, fun k ready => ?_⟩
      simp [released_slot s k] at ready)
    (fun _ _ a => a)

/-- Settles O11: at the release of pin reset no slot is FREE and no context in use. -/
theorem freeSlotsStayWiped : Obligations.FreeSlotsStayWiped :=
  step_keeps (fun _ _ w => w) (fun _ _ e => e.wiped)
    (fun s t h w => by
      obtain ⟨canonical, -, wiped⟩ := w
      refine ⟨by rw [MemoryCanonical, h.slots]; exact canonical, fun k c hc => by simp [h.scu k] at hc, fun k free => ?_⟩
      simp only [h.slots] at free
      simpa only [SlotWiped, h.slots] using wiped k free)
    (fun s _ w => by
      refine ⟨w.1, fun k c hc => ?_, fun k free => ?_⟩
      · simp [(released_noWork s).scaling k] at hc
      · simp [released_slot s k] at free)
    (fun _ _ w => w)

theorem latchSound_evolves {s t : State} (e : Evolves s t) (l : LatchSound s) : LatchSound t := by
  rcases e.flm with same | ⟨-, -, bypass, latched⟩
  · simpa only [LatchSound, same] using l
  · exact ⟨fun _ => .inl bypass, fun _ => latched⟩

/-- Settles O4: every operation keeps the fault monitor or latches, and the three commands of start-up make the other changes. -/
theorem partStateTransitions : Obligations.PartStateTransitions := by
  refine ⟨?keeps, ?changes⟩
  case keeps =>
    refine step_keeps (fun _ _ l => l) (fun _ _ => latchSound_evolves) (fun s t h _ => ?_) (fun s _ _ => ?_)
      (fun s starting l => ?_)
    · exact ⟨fun _ => .inr (by rw [h.flm]), fun bypass => by simp [h.flm] at bypass⟩
    · exact ⟨fun latched => absurd rfl latched, fun bypass => by cases bypass⟩
    · exact ⟨fun latched => by simpa [starting] using l.1 latched, fun bypass => by cases bypass⟩
  case changes =>
    intro c s t e
    have evolved (ev : Evolves s t) : t.flm = s.flm ∨ (s.flm.latch = none ∧
        (s.flm.part = .starting ∨ s.flm.part = .operating) ∧ ∃ cause, t.flm = { part := .bypass, latch := some cause }) := by
      refine ev.flm.imp id (fun ⟨clear, working, bypass, latched⟩ => ⟨clear, working, ?_⟩)
      obtain ⟨cause, hc⟩ := Option.ne_none_iff_exists'.mp latched
      exact ⟨cause, by rw [← bypass, ← hc]⟩
    by_cases h : restarts c
    · rcases h with rfl | rfl | rfl
      · rcases execPinResetAssert_cases e with same | held
        · exact .inl (by rw [same])
        · exact .inr (.inl ⟨rfl, held.flm⟩)
      · rcases execPinResetRelease_cases e with same | ⟨held, made⟩
        · exact .inl (by rw [same])
        · exact .inr (.inr (.inl ⟨rfl, held, by rw [made]; rfl⟩))
      · rcases execVerifyComplete_cases e with ev | ⟨starting, passed, n, made⟩
        · rcases evolved ev with same | latched
          · exact .inl same
          · exact .inr (.inr (.inr (.inr latched)))
        · exact .inr (.inr (.inr (.inl ⟨rfl, starting, passed, by simp [made]⟩)))
    · rcases evolved (evolves_of_exec h e) with same | latched
      · exact .inl same
      · exact .inr (.inr (.inr (.inr latched)))

/-- Settles O3: no operation touches the command queue or the settings, or lowers the tally; the release of pin reset keeps the queue. -/
theorem commandsKeepQueueAndSettings : Obligations.CommandsKeepQueueAndSettings := by
  intro c s t e
  have evolved (ev : Evolves s t) : t.pending = s.pending ∧ (c ≠ .pinResetRelease →
      t.sus.working = s.sus.working ∧ t.sus.storeValid = s.sus.storeValid ∧ s.fmc.tally.toNat ≤ t.fmc.tally.toNat) :=
    ⟨ev.pending, fun _ => ⟨ev.working.1, ev.working.2, ev.tally⟩⟩
  by_cases h : restarts c
  · rcases h with rfl | rfl | rfl
    · rcases execPinResetAssert_cases e with same | held
      · exact evolved (same ▸ .refl s)
      · exact ⟨held.pending, fun _ => ⟨held.settings.1, held.settings.2, by rw [held.slots]⟩⟩
    · rcases execPinResetRelease_cases e with same | ⟨-, made⟩
      · exact evolved (same ▸ .refl s)
      · exact ⟨by rw [made]; rfl, fun other => absurd rfl other⟩
    · rcases execVerifyComplete_cases e with ev | ⟨-, -, n, made⟩
      · exact evolved ev
      · exact ⟨by simp [made], fun _ => by simp [made]⟩
  · exact evolved (evolves_of_exec h e)

/-- Settles O1: the two cases of `step`. -/
theorem stepRunsFrontCommand : Obligations.StepRunsFrontCommand :=
  ⟨fun c s rest waiting => by simp only [step, waiting], fun s idle => by simp only [step, idle]⟩

/-- Settles O2: after reset every slot waits for the scrub, the link sends the first FILL and there is no work. -/
theorem resetMeetsInvariants : Obligations.ResetMeetsInvariants := by
  have part : State.reset.flm.part = .starting := rfl
  refine ⟨rfl, ⟨fun l => absurd rfl l, fun b => by cases b⟩, ?link, ?fifo, ?queues, fun _ => ?work, ?slots, ?wiped⟩
  case link => simp [LinkSound, part, reset_link]
  case fifo =>
    have fifo : State.reset.elu.fifo = [] := rfl
    simp [FifoSound, fifo, reset_link]
  case queues =>
    refine ⟨Nat.zero_le _, Nat.zero_le _, fun _ => rfl, fun st => ?_⟩
    rw [reset_noWork.queues st]
    exact Nat.zero_le _
  case work => exact reset_noWork
  case slots => exact ⟨fun k _ => List.mem_finRange k, fun k ready => by simp [reset_slot k] at ready⟩
  case wiped => exact ⟨rfl, fun k c hc => by simp [reset_noWork.scaling k] at hc, fun k free => by simp [reset_slot k] at free⟩

end Sys2Proof.Proofs
end

section
/-! What is written reads back: big-endian fields, records, profiles and the Start-up Store's cells. -/

namespace Sys2Proof.Proofs
open Sys2Proof.Machine Sys2Proof.Safety Sys2Proof.Laws

/-! ## Big-endian numbers -/

theorem beNat_append (xs ys : List Byte) : beNat (xs ++ ys) = beNat xs * 256 ^ ys.length + beNat ys := by
  unfold beNat
  rw [List.foldl_append]
  generalize xs.foldl (fun a b => 256 * a + b.toNat) 0 = a
  induction ys generalizing a with
  | nil => simp
  | cons y ys ih =>
    rw [List.foldl_cons, List.foldl_cons, ih (256 * a + y.toNat), ih (256 * 0 + y.toNat), List.length_cons, pow_succ]
    ring

theorem beNat_cons (b : Byte) (bs : List Byte) : beNat (b :: bs) = b.toNat * 256 ^ bs.length + beNat bs := by
  have one := beNat_append [b] bs
  simpa [beNat] using one

theorem beNat_lt (bs : List Byte) : beNat bs < 256 ^ bs.length := by
  induction bs with
  | nil => simp [beNat]
  | cons b bs ih =>
    rw [beNat_cons, List.length_cons, pow_succ]
    have byte : b.toNat ≤ 255 := by have := b.isLt; omega
    nlinarith [Nat.mul_le_mul_right (256 ^ bs.length) byte]

/-- `toBE n` reads a number modulo `256 ^ n`. -/
theorem toBE_add_mul (n a v : Nat) : toBE n (a * 256 ^ n + v) = toBE n v := by
  induction n generalizing a with
  | zero => rfl
  | succ n ih =>
    have shift : a * 256 ^ (n + 1) + v = a * 256 * 256 ^ n + v := by ring
    rw [toBE, toBE, shift, ih (a * 256)]
    congr 1
    apply BitVec.eq_of_toNat_eq
    rw [Nat.add_comm, Nat.add_mul_div_right _ _ (by positivity), BitVec.toNat_ofNat, BitVec.toNat_ofNat,
      show 2 ^ 8 = 256 by decide, Nat.add_mul_mod_self_right]

/-- The bytes of a number spell it (section 6 of the scope). -/
theorem beNat_toBE (n v : Nat) : beNat (toBE n v) = v % 256 ^ n := by
  induction n with
  | zero => simp [toBE, beNat, Nat.mod_one]
  | succ n ih =>
    rw [toBE, beNat_cons, ih, toBE_length, BitVec.toNat_ofNat, show 2 ^ 8 = 256 by decide, pow_succ, Nat.mod_mul]
    ring

/-- The number that bytes spell has those bytes. -/
theorem toBE_beNat (bs : List Byte) : toBE bs.length (beNat bs) = bs := by
  induction bs with
  | nil => rfl
  | cons b bs ih =>
    have small := beNat_lt bs
    have pos : 0 < 256 ^ bs.length := by positivity
    rw [List.length_cons, toBE, beNat_cons]
    congr 1
    · rw [Nat.add_comm, Nat.add_mul_div_right _ _ pos, Nat.div_eq_of_lt small, Nat.zero_add]
      exact BitVec.ofNat_toNat _ _ |>.trans (by simp)
    · rw [toBE_add_mul, ih]

theorem toBE_one (v : Nat) : toBE 1 v = [byteOf v] := by simp [toBE, byteOf]

@[simp] theorem byteOf_toNat (b : Byte) : byteOf b.toNat = b := by simp [byteOf]

theorem toNat_byteOf {v : Nat} (h : v < 256) : (byteOf v).toNat = v := by
  simp [byteOf, Nat.mod_eq_of_lt h]

/-- A field of a payload, in its bytes. -/
theorem toBE_param {p : List Byte} {o n : Nat} (h : o + n ≤ p.length) : toBE n (param p o n) = (p.drop o).take n := by
  have len : ((p.drop o).take n).length = n := by simp; omega
  have bytes := toBE_beNat ((p.drop o).take n)
  rwa [len] at bytes

/-- A payload from an offset on is the field there and the rest. -/
theorem drop_eq_field_append (p : List Byte) (o n : Nat) (h : o + n ≤ p.length) :
    p.drop o = toBE n (param p o n) ++ p.drop (o + n) := by
  rw [toBE_param h, ← List.drop_drop, List.take_append_drop]

theorem drop_eq_byte_cons (p : List Byte) (o : Nat) (h : o + 1 ≤ p.length) :
    p.drop o = byteOf (param p o 1) :: p.drop (o + 1) := by
  rw [drop_eq_field_append p o 1 h, toBE_one, List.singleton_append]

theorem param_lt (p : List Byte) (o n : Nat) : param p o n < 256 ^ n :=
  (beNat_lt _).trans_le (Nat.pow_le_pow_right (by decide) (by simp))

/-! ## Records -/

theorem toBE_two (v : Nat) : toBE 2 v = [byteOf (v / 256), byteOf v] := by simp [toBE, byteOf]

theorem beNat_two {v : Nat} (h : v < 65536) : beNat [byteOf (v / 256), byteOf v] = v := by
  rw [← toBE_two, beNat_toBE]
  exact Nat.mod_eq_of_lt h

/-- Settles O12: `parseRecord` takes apart what `recordBytes` puts together, field by field. -/
theorem recordBytesReadBack : Obligations.RecordBytesReadBack := by
  intro r sound noCheck
  obtain ⟨kind, target, tag, payload, check⟩ := r
  simp only at noCheck
  have len : payload.length ≤ 16384 := payload_le_of_headerFaulty sound
  have crc := beNat_two (crc16 (headerBytes kind target tag payload.length)).isLt
  have trailer : (if payload = [] then [] else toBE 4 check.toNat).length = if payload.length = 0 then 0 else 4 := by
    split <;> simp_all [toBE_length]
  have checkBack : BitVec.ofNat 32 (beNat (if payload = [] then [] else toBE 4 check.toNat)) = check := by
    split
    case isTrue empty => simp [noCheck empty, beNat]
    case isFalse => rw [beNat_toBE, Nat.mod_eq_of_lt (show _ < 256 ^ 4 from check.isLt), BitVec.ofNat_toNat, BitVec.setWidth_eq]
  unfold recordBytes
  simp only [headerBytes, toBE_two, List.cons_append, List.nil_append] at crc ⊢
  unfold parseRecord
  simp only [beNat_two tag.isLt, beNat_two (show payload.length < 65536 by omega), crc, List.take_left', List.drop_left',
    checkBack, BitVec.ofNat_toNat, BitVec.setWidth_eq]
  rw [if_neg (by simp), if_neg (by simp [Config.maxPayload, len]), if_neg, if_neg (by simp [sound])]
  rw [List.length_append, trailer]
  split <;> omega

/-! ## Profiles -/

theorem firstOutOfRange_eq_none_iff (fields : List (Nat × Bool)) :
    firstOutOfRange fields = none ↔ ∀ x ∈ fields, x.2 = true := by
  induction fields with
  | nil => simp [firstOutOfRange]
  | cons x rest ih =>
    obtain ⟨o, ok⟩ := x
    cases ok <;> simp [firstOutOfRange, ih]

/-- A flag byte in its range of 0 and 1 is the flag it spells. -/
theorem byteOfBool_eq_byteOf {v : Nat} (h : v ≤ 1) : byteOfBool (decide (v = 1)) = byteOf v := by
  interval_cases v <;> rfl

/-- Settles O13: the payload from offset 2 on is its fields in order, and `profileBytes` writes them in that order. -/
theorem profileReadsBackAsWritten : Obligations.ProfileReadsBackAsWritten := by
  intro d p len accepted
  rw [firstOutOfRange_eq_none_iff] at accepted
  have flag (o : Nat) (ho : (o, inRange 0 1 (param p o 1)) ∈ profileRanges d p) : param p o 1 ≤ 1 := by
    have ok := accepted _ ho
    simp only [inRange, Bool.and_eq_true, decide_eq_true_eq] at ok
    exact ok.2
  have step := byteOfBool_eq_byteOf (flag 21 (by simp [profileRanges]))
  have policy := byteOfBool_eq_byteOf (flag 22 (by simp [profileRanges]))
  have repeated := byteOfBool_eq_byteOf (flag 29 (by simp [profileRanges]))
  have inversion := byteOfBool_eq_byteOf (flag 30 (by simp [profileRanges]))
  have policyBack : byteOfBool (decide ((profileOf p).policy = .withhold)) = byteOf (param p 22 1) := by
    rw [← policy]
    unfold profileOf
    by_cases h : param p 22 1 = 1 <;> simp [h]
  have mask : (BitVec.ofNat 32 (param p 25 4)).toNat = param p 25 4 := Nat.mod_eq_of_lt (param_lt p 25 4)
  have fields (o n : Nat) (h : o + n ≤ 31 := by decide) := drop_eq_field_append p o n (len ▸ h)
  have byte (o : Nat) (h : o + 1 ≤ 31 := by decide) := drop_eq_byte_cons p o (len ▸ h)
  rw [fields 2 2, byte 4, byte 5, byte 6, byte 7, byte 8, byte 9, byte 10, fields 11 4, fields 15 4, byte 19, byte 20,
    byte 21, byte 22, byte 23, byte 24, fields 25 4, byte 29, byte 30, List.drop_eq_nil_of_le (by omega)]
  rw [profileBytes, policyBack]
  simp only [profileOf, step, repeated, inversion, mask, List.append_assoc,
    List.cons_append, List.nil_append]

/-! ## The Start-up Store's cells -/

theorem checkByte_ne (cells : List Byte) : checkByte cells ≠ 0xFF := by
  intro e
  have small := toNat_byteOf (v := (cells.map BitVec.toNat).sum % 255) (by omega)
  rw [← checkByte, e] at small
  have bound := Nat.mod_lt (cells.map BitVec.toNat).sum (show 255 > 0 by decide)
  simp at small
  omega

/-- Settles O14: the five cells hold the fields and the sixth their check byte, which is never the erased value. -/
theorem programmedStoreReadsBack : Obligations.ProgrammedStoreReadsBack := by
  intro c hs lo hi
  have station := toNat_byteOf (show c.station < 256 by omega)
  have mark := toNat_byteOf (show c.mark < 256 by omega)
  have maskBack := beNat_two c.mask.isLt
  have notices : (byteOfBool c.linkNotices).toNat = c.linkNotices.toNat := by cases c.linkNotices <;> rfl
  have cells : contentCells c = [byteOf c.station, byteOf (c.mask.toNat / 256), byteOf c.mask.toNat, byteOf c.mark,
      byteOfBool c.linkNotices] := by simp [contentCells, settingsBytes, toBE_two]
  have check := checkByte_ne (contentCells c)
  have at' (i : Fin 6) : (programmedCells c)[i] =
      if i.val = 5 then checkByte (contentCells c) else (contentCells c).getD i.val 0 := by simp [programmedCells]
  have c0 := at' 0
  have c1 := at' 1
  have c2 := at' 2
  have c3 := at' 3
  have c4 := at' 4
  have c5 := at' 5
  simp [cells] at c0 c1 c2 c3 c4 c5
  rw [cells] at check
  unfold readStore
  simp only [c0, c1, c2, c3, c4, c5, station, mark, maskBack, notices]
  rw [if_pos ⟨check, trivial, hs, lo, hi, Bool.toNat_le _⟩]
  simp

end Sys2Proof.Proofs
end

section
/-! The fill sequence and the link qualification monitor (section 1.4). -/

namespace Sys2Proof.Proofs
open Sys2Proof.Machine Sys2Proof.Safety Sys2Proof.Laws

/-! ## Bits and bytes -/

theorem byteBits_byteOf_bitsNat (a b c d e f g h : Bool) :
    byteBits (byteOf (bitsNat [a, b, c, d, e, f, g, h])) = [a, b, c, d, e, f, g, h] := by
  revert a b c d e f g h
  decide

theorem bitsOf_append (xs ys : List Byte) : bitsOf (xs ++ ys) = bitsOf xs ++ bitsOf ys := List.flatMap_append

/-- Bits packed into whole bytes are those bits. -/
theorem bitsOf_packBytes (n : Nat) (bits : List Bool) (h : bits.length = 8 * n) : bitsOf (packBytes bits) = bits := by
  induction n generalizing bits with
  | zero => rw [List.length_eq_zero_iff.mp h]; rfl
  | succ n ih =>
    match bits, h with
    | a :: b :: c :: d :: e :: f :: g :: k :: rest, h =>
      have back := ih rest (by simp only [List.length_cons] at h; omega)
      simp only [bitsOf] at back
      simp only [packBytes, bitsOf, List.flatMap_cons, byteBits_byteOf_bitsNat, back, List.cons_append, List.nil_append]

theorem packBytes_length (n : Nat) (bits : List Bool) (h : bits.length = 8 * n) : (packBytes bits).length = n := by
  induction n generalizing bits with
  | zero => rw [List.length_eq_zero_iff.mp h]; rfl
  | succ n ih =>
    match bits, h with
    | a :: b :: c :: d :: e :: f :: g :: k :: rest, h =>
      simp only [packBytes, List.length_cons, ih rest (by simp only [List.length_cons] at h; omega)]

/-! ## The fill sequence -/

@[simp] theorem fillRun_length (n : Nat) (st : BitVec 15) : (fillRun n st).1.length = n := by
  induction n generalizing st with
  | zero => rfl
  | succ n ih => simp [fillRun, ih]

theorem fillRun_add (a b : Nat) (st : BitVec 15) :
    fillRun (a + b) st = ((fillRun a st).1 ++ (fillRun b (fillRun a st).2).1, (fillRun b (fillRun a st).2).2) := by
  induction a generalizing st with
  | zero => simp [fillRun]
  | succ a ih => rw [Nat.succ_add]; simp [fillRun, ih]

theorem fillRun_snd (n : Nat) (st : BitVec 15) : (fillRun n st).2 = (fillRun n st).1.foldl fillShift st := by
  induction n generalizing st with
  | zero => rfl
  | succ n ih => simp [fillRun, ih]

theorem toNat_fillShift (st : BitVec 15) (b : Bool) : (fillShift st b).toNat = (2 * st.toNat + b.toNat) % 2 ^ 15 := by
  have shifted : fillShift st b = (st <<< 1) + (if b then 1 else 0) := by
    unfold fillShift
    cases b
    · simp
    · refine (BitVec.add_eq_or_of_and_eq_zero _ _ ?_).symm
      ext i hi
      cases i <;> simp [BitVec.getElem_one]
  rw [shifted]
  cases b <;> simp [BitVec.toNat_add, BitVec.toNat_shiftLeft, Nat.shiftLeft_eq] <;> omega

theorem bitsNat_cons (b : Bool) (bits : List Bool) : bitsNat (b :: bits) = b.toNat * 2 ^ bits.length + bitsNat bits := by
  have general (a : Nat) : bits.foldl (fun a b => 2 * a + b.toNat) a = a * 2 ^ bits.length + bitsNat bits := by
    unfold bitsNat
    induction bits generalizing a with
    | nil => simp
    | cons x xs ih => simp only [List.foldl_cons, List.length_cons]; rw [ih, ih (2 * 0 + x.toNat)]; ring
  simpa [bitsNat] using general (2 * 0 + b.toNat)

theorem bitsNat_lt (bits : List Bool) : bitsNat bits < 2 ^ bits.length := by
  induction bits with
  | nil => simp [bitsNat]
  | cons b bits ih => rw [bitsNat_cons, List.length_cons]; cases b <;> simp <;> omega

theorem bitsNat_eq_zero_iff (bits : List Bool) : bitsNat bits = 0 ↔ ∀ b ∈ bits, b = false := by
  induction bits with
  | nil => simp [bitsNat]
  | cons b bits ih => rw [bitsNat_cons]; cases b <;> simp [ih]

theorem toNat_foldl_fillShift (bits : List Bool) (st : BitVec 15) :
    (bits.foldl fillShift st).toNat = (st.toNat * 2 ^ bits.length + bitsNat bits) % 2 ^ 15 := by
  induction bits generalizing st with
  | nil => simp [bitsNat, Nat.mod_eq_of_lt st.isLt]
  | cons b bits ih =>
    rw [List.foldl_cons, ih, toNat_fillShift, bitsNat_cons, List.length_cons, Nat.add_mod, Nat.mod_mul_mod, ← Nat.add_mod]
    ring_nf

/-- Fifteen bits fill the predictor: what stood in it before is gone. -/
theorem toNat_loaded {bits : List Bool} (h : bits.length = 15) (st : BitVec 15) :
    (bits.foldl fillShift st).toNat = bitsNat bits := by
  have small := bitsNat_lt bits
  rw [h] at small
  rw [toNat_foldl_fillShift, h, Nat.add_comm, Nat.add_mul_mod_self_right, Nat.mod_eq_of_lt small]

theorem loaded_eq {bits : List Bool} (h : bits.length = 15) (a b : BitVec 15) :
    bits.foldl fillShift a = bits.foldl fillShift b :=
  BitVec.eq_of_toNat_eq ((toNat_loaded h a).trans (toNat_loaded h b).symm)

theorem loaded_eq_zero_iff {bits : List Bool} (h : bits.length = 15) (st : BitVec 15) :
    bits.foldl fillShift st = 0 ↔ ∀ b ∈ bits, b = false := by
  rw [← bitsNat_eq_zero_iff, ← toNat_loaded h st]
  exact ⟨fun e => by rw [e]; rfl, fun e => BitVec.eq_of_toNat_eq e⟩

/-- The generator never runs into the state of all zeros. -/
theorem fillStep_ne_zero {st : BitVec 15} (h : st ≠ 0) : fillShift st (fillNext st) ≠ 0 := by
  intro zero
  have value := congrArg BitVec.toNat zero
  rw [toNat_fillShift] at value
  have pos : st.toNat ≠ 0 := fun e => h (BitVec.eq_of_toNat_eq e)
  have bound := st.isLt
  have top : st = 0x4000#15 ∧ fillNext st = false := by
    cases next : fillNext st <;> simp [next] at value
    · exact ⟨BitVec.eq_of_toNat_eq (by simp; omega), rfl⟩
    · omega
  rw [top.1] at top
  exact absurd top.2 (by decide)

theorem fillRun_ne_zero (n : Nat) {st : BitVec 15} (h : st ≠ 0) : (fillRun n st).2 ≠ 0 := by
  induction n generalizing st with
  | zero => exact h
  | succ n ih => exact ih (fillStep_ne_zero h)

/-! ## Bits compared -/

theorem mismatched_cons (a b : Bool) (as bs : List Bool) :
    mismatched (a :: as) (b :: bs) = (a ^^ b).toNat + mismatched as bs := by
  unfold mismatched
  cases a <;> cases b <;> simp [Nat.add_comm]

@[simp] theorem mismatched_nil (bs : List Bool) : mismatched [] bs = 0 := rfl

theorem mismatched_self (as : List Bool) : mismatched as as = 0 := by
  induction as with
  | nil => rfl
  | cons a as ih => rw [mismatched_cons, ih]; cases a <;> rfl

/-- The monitor after bits compared with its predictor, no trial and no block ending among them. -/
def comparing (m : Monitor) (bits : List Bool) : Monitor :=
  { m with
    predictor := (fillRun bits.length m.predictor).2
    position := m.position + bits.length
    mismatches := m.mismatches + mismatched bits (fillRun bits.length m.predictor).1 }

/-- In a trial, past its seed (R10). -/
theorem hunt_compares (m : Monitor) (bits : List Bool) (hm : m.state = .hunt) (seeded : 15 ≤ m.position)
    (room : m.position + bits.length ≤ 143) :
    bits.foldl monitorBit m =
      if bits ≠ [] ∧ m.position + bits.length = 143 then
        enterMonitor (if (comparing m bits).mismatches < 4 then .sync else .hunt) (comparing m bits)
      else comparing m bits := by
  induction bits generalizing m with
  | nil => simp [comparing, fillRun]
  | cons b bits ih =>
    rw [List.length_cons] at room
    have next : comparing (comparing m [b]) bits = comparing m (b :: bits) := by
      simp [comparing, fillRun, mismatched_cons, Nat.add_assoc, Nat.add_comm 1]
    have first : monitorBit m b = if m.position + 1 < 143 then comparing m [b]
        else enterMonitor (if (comparing m [b]).mismatches < 4 then .sync else .hunt) (comparing m [b]) := by
      have count (x : Bool) : mismatched [b] [x] = (b ^^ x).toNat := mismatched_cons b x [] []
      simp only [monitorBit, hm, huntBit, if_neg (Nat.not_lt.mpr seeded), comparing, fillRun, count, List.length_singleton]
      split
      · rfl
      · split <;> rfl
    rw [List.foldl_cons, first]
    by_cases last : bits = []
    · subst last
      by_cases ends : m.position + 1 = 143
      · simp [ends]
      · simp [show m.position + 1 < 143 by simp at room; omega, show m.position + 1 ≠ 143 from ends]
    · have more : 0 < bits.length := List.length_pos_iff.mpr last
      rw [if_pos (by omega), ih (comparing m [b]) hm (by simp [comparing]; omega) (by simp [comparing]; omega), next]
      simp [last, comparing, Nat.add_assoc, Nat.add_comm 1]

/-- The monitor after bits of a block of SYNC, the block not ending among them: each mismatch counts (R11). -/
def counting (m : Monitor) (bits : List Bool) : Monitor :=
  { comparing m bits with count := satAdd m.count (mismatched bits (fillRun bits.length m.predictor).1) }

/-- In a block of SYNC (R11). -/
theorem sync_compares (m : Monitor) (bits : List Bool) (hm : m.state = .sync) (room : m.position + bits.length ≤ 128) :
    bits.foldl monitorBit m =
      if bits ≠ [] ∧ m.position + bits.length = 128 then
        enterMonitor (if 12 ≤ (counting m bits).mismatches then .hunt else .sync) (counting m bits)
      else counting m bits := by
  induction bits generalizing m with
  | nil => simp [counting, comparing, fillRun]
  | cons b bits ih =>
    rw [List.length_cons] at room
    have next : counting (counting m [b]) bits = counting m (b :: bits) := by
      simp [counting, comparing, fillRun, mismatched_cons, satAdd_satAdd, Nat.add_assoc, Nat.add_comm 1]
    have first : monitorBit m b = if m.position + 1 < 128 then counting m [b]
        else enterMonitor (if 12 ≤ (counting m [b]).mismatches then .hunt else .sync) (counting m [b]) := by
      have count : (if b = fillNext m.predictor then m.count else satInc m.count) =
          satAdd m.count (b ^^ fillNext m.predictor).toNat := by
        cases b <;> cases fillNext m.predictor <;> simp [satInc_eq]
      simp only [monitorBit, hm, syncBit, counting, comparing, fillRun, mismatched_cons, mismatched_nil, Nat.add_zero,
        List.length_singleton, count]
      split
      · rfl
      · split <;> rfl
    rw [List.foldl_cons, first]
    by_cases last : bits = []
    · subst last
      by_cases ends : m.position + 1 = 128
      · simp [ends]
      · simp [show m.position + 1 < 128 by simp at room; omega, show m.position + 1 ≠ 128 from ends]
    · have more : 0 < bits.length := List.length_pos_iff.mpr last
      have position : (counting m [b]).position = m.position + 1 := rfl
      rw [if_pos (by omega), ih (counting m [b]) hm (by omega) , next, position]
      simp [last, Nat.add_assoc, Nat.add_comm 1]

/-- The seed of a trial: fifteen bits into the predictor, discarded when all are zero (R10). -/
theorem hunt_seeds (m : Monitor) (bits : List Bool) (hm : m.state = .hunt) (room : m.position + bits.length ≤ 15) :
    bits.foldl monitorBit m =
      { m with
        predictor := bits.foldl fillShift m.predictor
        position := if bits ≠ [] ∧ m.position + bits.length = 15 ∧ bits.foldl fillShift m.predictor = 0 then 0
          else m.position + bits.length } := by
  induction bits generalizing m with
  | nil => simp
  | cons b bits ih =>
    rw [List.length_cons] at room
    have first : monitorBit m b = { m with
        predictor := fillShift m.predictor b
        position := if m.position = 14 ∧ fillShift m.predictor b = 0 then 0 else m.position + 1 } := by
      simp only [monitorBit, hm, huntBit, if_pos (show m.position < 15 by omega)]
      split <;> rfl
    rw [List.foldl_cons, first]
    by_cases last : bits = []
    · subst last
      simp [show m.position + 1 = 15 ↔ m.position = 14 by omega]
    · have more : 0 < bits.length := List.length_pos_iff.mpr last
      rw [if_neg (by omega), ih { m with predictor := fillShift m.predictor b, position := m.position + 1 } hm (by simp; omega)]
      simp [last, Nat.add_assoc, Nat.add_comm 1]

/-! ## Trials and blocks -/

/-- A whole trial: 15 bits seed it and 128 decide it (R10). -/
theorem trial_decides (m : Monitor) {seed bits : List Bool} (hm : m.state = .hunt) (start : m.position = 0)
    (clean : m.mismatches = 0) (hs : seed.length = 15) (hb : bits.length = 128) (seeded : ∃ b ∈ seed, b = true) :
    let run := fillRun 128 (seed.foldl fillShift 0)
    (seed ++ bits).foldl monitorBit m =
      { m with
        state := if mismatched bits run.1 < 4 then .sync else .hunt
        predictor := run.2, position := 0, mismatches := 0 } := by
  intro run
  have loaded : seed.foldl fillShift m.predictor ≠ 0 := by
    rw [Ne, loaded_eq_zero_iff hs]
    exact fun none => by obtain ⟨b, mem, set⟩ := seeded; simp [none b mem] at set
  rw [List.foldl_append, hunt_seeds m seed hm (by omega), if_neg (fun h => loaded h.2.2), start, hs, hunt_compares]
  · have some : bits ≠ [] := by rintro rfl; simp at hb
    rw [if_pos ⟨some, by simp [hb]⟩]
    simp only [enterMonitor, comparing, hb, clean, Nat.zero_add, loaded_eq hs m.predictor 0, run]
  all_goals simp [hm, hb]

/-- A seed of zeros is discarded (R10). -/
theorem zero_seed_discarded (m : Monitor) {seed : List Bool} (hm : m.state = .hunt) (start : m.position = 0)
    (hs : seed.length = 15) (zeros : ∀ b ∈ seed, b = false) : seed.foldl monitorBit m = { m with predictor := 0 } := by
  have loaded := (loaded_eq_zero_iff hs m.predictor).mpr zeros
  have some : seed ≠ [] := by rintro rfl; simp at hs
  rw [hunt_seeds m seed hm (by omega), loaded, if_pos ⟨some, by omega, rfl⟩, ← start]

/-- The bits that end a block in SYNC (R11). -/
theorem block_decides (m : Monitor) {bits : List Bool} (hm : m.state = .sync) (within : m.position < 128)
    (ends : m.position + bits.length = 128) :
    let run := fillRun bits.length m.predictor
    let wrong := mismatched bits run.1
    bits.foldl monitorBit m =
      { state := if 12 ≤ m.mismatches + wrong then .hunt else .sync
        predictor := run.2, position := 0, mismatches := 0, count := satAdd m.count wrong } := by
  intro run wrong
  have some : bits ≠ [] := by rintro rfl; simp at ends; omega
  rw [sync_compares m bits hm (by omega), if_pos ⟨some, ends⟩]
  rfl

/-- Bits of the monitor's own sequence within a block (R11). -/
theorem sync_follows (m : Monitor) {n : Nat} (hm : m.state = .sync) (room : m.position + n < 128) :
    (fillRun n m.predictor).1.foldl monitorBit m =
      { m with predictor := (fillRun n m.predictor).2, position := m.position + n } := by
  rw [sync_compares m _ hm (by simp; omega), if_neg (by simp; omega)]
  simp [counting, comparing, mismatched_self]

/-! ## A FILL -/

/-- The bits of a FILL are the sequence, its first bit turned over where it is marked (R8, R9). -/
theorem bitsOf_fillPayload (gen : BitVec 15) (mark : Bool) (n k : Nat) (h : n + k + 1 = 256) :
    bitsOf (fillPayload gen mark).1 =
      ((fillNext gen ^^ mark) :: (fillRun n (fillShift gen (fillNext gen))).1) ++ (fillRun k (fillRun (n + 1) gen).2).1 := by
  have run : fillRun (n + k + 1) gen = (fillNext gen :: (fillRun (n + k) (fillShift gen (fillNext gen))).1,
    (fillRun (n + k) (fillShift gen (fillNext gen))).2) := rfl
  unfold fillPayload
  rw [← h, run]
  simp only
  rw [bitsOf_packBytes 32 _ (by rw [List.length_cons, fillRun_length, h]), fillRun_add]
  rfl

theorem bitsOf_fillPayload_unmarked (gen : BitVec 15) : bitsOf (fillPayload gen false).1 = (fillRun 256 gen).1 := by
  have whole : fillRun 256 gen = fillRun (255 + 1 + 0) gen := congrArg (fillRun · gen) (by decide)
  rw [bitsOf_fillPayload gen false 255 0 (by decide), Bool.xor_false, whole, fillRun_add]
  generalize 255 = n
  rfl

theorem fillPayload_snd (gen : BitVec 15) (mark : Bool) : (fillPayload gen mark).2 = (fillRun 256 gen).2 := by
  unfold fillPayload
  generalize 256 = n
  rfl

/-- The sequence after a stretch of it, when the stretch loads the predictor. -/
theorem loaded_fillRun (gen : BitVec 15) : (fillRun 15 gen).1.foldl fillShift 0 = (fillRun 15 gen).2 := by
  rw [fillRun_snd, loaded_eq (fillRun_length 15 gen) 0 gen]

/-- A monitor at the start of a trial meets a running generator: 15 bits load the predictor, 128 agree with it, and the
rest begin the first block. -/
theorem trial_follows (m : Monitor) {gen : BitVec 15} (rest : Nat) (hunt : m.state = .hunt) (start : m.position = 0)
    (clean : m.mismatches = 0) (running : gen ≠ 0) (room : rest < 128) :
    (fillRun (15 + 128 + rest) gen).1.foldl monitorBit m =
      { state := .sync, predictor := (fillRun (15 + 128 + rest) gen).2, position := rest, mismatches := 0,
        count := m.count } := by
  have seeded : ∃ b ∈ (fillRun 15 gen).1, b = true := by
    by_contra zeros
    have stuck := (loaded_eq_zero_iff (fillRun_length 15 gen) 0).mpr (by simpa using zeros)
    exact fillRun_ne_zero 15 running (loaded_fillRun gen ▸ stuck)
  rw [fillRun_add, fillRun_add 15 128, List.foldl_append,
    trial_decides m hunt start clean (fillRun_length _ _) (fillRun_length _ _) seeded, loaded_fillRun,
    mismatched_self, if_pos (by decide), sync_follows _ rfl (by simpa using room), Nat.zero_add]

/-- Settles O15: the 256 bits of a FILL are 15 that seed a trial, 128 that pass it and 113 of the first block. -/
theorem oneFillReachesSync : Obligations.OneFillReachesSync := by
  intro m gen hunt start clean running
  have whole : fillRun 256 gen = fillRun (15 + 128 + 113) gen := congrArg (fillRun · gen) (by decide)
  simp only [bitsOf_fillPayload_unmarked, fillPayload_snd, whole]
  exact trial_follows m 113 hunt start clean running (by decide)

/-- A FILL in SYNC ends the block it finds, is a block of its own, and begins another (R9, R11). -/
theorem sync_takes_fill (m : Monitor) (mark : Bool) (hm : m.state = .sync) (within : m.position < 128)
    (few : m.mismatches + mark.toNat < 12) :
    (bitsOf (fillPayload m.predictor mark).1).foldl monitorBit m =
      { state := .sync, predictor := (fillPayload m.predictor mark).2, position := m.position, mismatches := 0,
        count := satAdd m.count mark.toNat } := by
  obtain ⟨n, rest⟩ : ∃ n, m.position + (n + 1) = 128 := ⟨127 - m.position, by omega⟩
  have wrong : mismatched ((fillNext m.predictor ^^ mark) :: (fillRun n (fillShift m.predictor (fillNext m.predictor))).1)
      (fillRun (n + 1) m.predictor).1 = mark.toNat := by
    simp only [fillRun, mismatched_cons, mismatched_self]
    cases fillNext m.predictor <;> cases mark <;> rfl
  have ended := block_decides m (bits := (fillNext m.predictor ^^ mark) ::
    (fillRun n (fillShift m.predictor (fillNext m.predictor))).1) hm within (by simp; omega)
  simp only [List.length_cons, fillRun_length, wrong, if_neg (Nat.not_le.mpr few)] at ended
  have whole : fillRun 256 m.predictor = fillRun (n + 1 + (128 + m.position)) m.predictor :=
    congrArg (fillRun · m.predictor) (by omega)
  rw [bitsOf_fillPayload _ _ n (128 + m.position) (by omega), fillPayload_snd, List.foldl_append, ended, whole,
    fillRun_add (n + 1)]
  simp only
  generalize (fillRun (n + 1) m.predictor).2 = gen
  rw [fillRun_add 128, List.foldl_append]
  have ownBlock := block_decides
    { state := .sync, predictor := gen, position := 0, mismatches := 0, count := satAdd m.count mark.toNat }
    (bits := (fillRun 128 gen).1) rfl (by simp) (by simp)
  simp only [fillRun_length, mismatched_self, satAdd_zero, Nat.add_zero, if_neg (show ¬ 12 ≤ 0 by decide)] at ownBlock
  rw [ownBlock, sync_follows _ rfl (by simpa using within), Nat.zero_add]

/-- Settles O16: a FILL in SYNC, a trial from its seed, and a block from its start. -/
theorem markedFillCostsOneMismatch : Obligations.MarkedFillCostsOneMismatch := by
  refine ⟨?_, ?_, ?_⟩
  · intro m mark sync within few
    simp only [sync_takes_fill m mark sync within few]
    refine ⟨trivial, trivial, trivial, ?_⟩
    cases mark <;> simp [satInc_eq]
  · intro m seed bits hunt start clean hs hb hunting loaded run wrong
    refine ⟨fun zeros => ?_, fun seeded => ⟨fun few => ?_, fun many => ?_⟩⟩
    · rw [zero_seed_discarded m hunt start hs zeros]
      exact ⟨hunt, start, clean, rfl⟩
    · rw [trial_decides m hunt start clean hs hb seeded, if_pos few]
    · rw [trial_decides m hunt start clean hs hb seeded, if_neg (Nat.not_lt.mpr many)]
      exact ⟨rfl, rfl, rfl, rfl⟩
  · intro m bits sync start clean hb run wrong m'
    have taken : m' = _ := block_decides m sync (by omega) (by omega)
    rw [hb, clean, Nat.zero_add] at taken
    rw [taken]
    exact ⟨rfl, rfl, rfl, fun few => ⟨if_neg (Nat.not_le.mpr few), rfl⟩, fun many => if_pos many⟩

end Sys2Proof.Proofs
end

section
/-! The functions of the pipeline: scaling, despeckle, the run coder; and the ingress hold line. -/

namespace Sys2Proof.Proofs
open Sys2Proof.Machine Sys2Proof.Safety Sys2Proof.Laws

/-! ## Scaling -/

theorem scaleStep_bounds {inn out : Nat} (hi : 100 ≤ inn) (hi' : inn ≤ 400) (ho : 100 ≤ out) (ho' : out ≤ 300)
    (smaller : out < inn) :
    257 ≤ scaleStep inn out ∧ scaleStep inn out ≤ 1024 ∧ 2 * out * scaleStep inn out ≤ 512 * inn + out ∧
      512 * inn + out < 2 * out * (scaleStep inn out + 1) := by
  rw [scaleStep, if_neg (Nat.not_le.mpr smaller)]
  have pos : 0 < 2 * out := by omega
  refine ⟨?_, ?_, Nat.mul_div_le _ _, Nat.lt_mul_div_succ _ pos⟩
  · rw [Nat.le_div_iff_mul_le pos]; omega
  · refine Nat.lt_succ_iff.mp ((Nat.div_lt_iff_lt_mul pos).mpr ?_); omega

/-- Settles O17: a quotient and its remainder, for the step and for the size. -/
theorem scaleStepAndOutputSize : Obligations.ScaleStepAndOutputSize := by
  intro inn out kept hi hi' ho ho' S
  have whole : inn ≤ out → S = 256 := fun le => if_pos le
  have range : 256 ≤ S ∧ S ≤ 1024 := by
    rcases Nat.lt_or_ge out inn with smaller | le
    · have b := scaleStep_bounds hi hi' ho ho' smaller
      exact ⟨by omega, b.2.1⟩
    · rw [whole le]; decide
  have pos : 0 < S := by omega
  refine ⟨whole, fun smaller => ?_, range.2, ?_, ?_, outputSize_scaleStep_le kept inn out⟩
  · obtain ⟨low, -, below, above⟩ := scaleStep_bounds hi hi' ho ho' smaller
    exact ⟨low, below, above⟩
  · rw [outputSize, Nat.mul_comm 256]; exact Nat.div_mul_le_self _ _
  · rw [outputSize, Nat.mul_comm 256, Nat.mul_comm _ S]; exact Nat.lt_mul_div_succ _ pos

/-- The overlaps of the first `n` samples with a span: the span's part among them (R69). -/
theorem sum_overlap (n j S : Nat) :
    ((List.range n).map (fun i => overlap i j S)).sum = max (j * S) (min (256 * n) (j * S + S)) - j * S := by
  induction n with
  | zero => simp
  | succ n ih =>
    rw [List.range_succ, List.map_append, List.sum_append, ih, List.map_singleton, List.sum_singleton, overlap]
    omega

theorem overlap_before {i j S : Nat} (h : i < j * S / 256) : overlap i j S = 0 := by
  unfold overlap; omega

/-- A span of at most four samples meets at most five (R69). -/
theorem overlap_after {i j S : Nat} (hS : S ≤ 1024) (h : j * S / 256 + 5 ≤ i) : overlap i j S = 0 := by
  unfold overlap; omega

/-- A sum over all the samples of terms that vanish outside five places is the sum over these. -/
theorem sum_window {f : Nat → Nat} (n first : Nat) (before : ∀ i < first, f i = 0) (after : ∀ i, first + 5 ≤ i → f i = 0)
    (outside : ∀ i, n ≤ i → f i = 0) :
    ((List.range 5).map (fun t => f (first + t))).sum = ((List.range n).map f).sum := by
  have wide (m : Nat) (h : ∀ i, m ≤ i → f i = 0) :
      ∑ i ∈ Finset.range m, f i = ∑ i ∈ Finset.range (max n (first + 5)), f i ∨ max n (first + 5) < m := by
    rcases Nat.lt_or_ge (max n (first + 5)) m with lt | ge
    · exact .inr lt
    · exact .inl (Finset.sum_subset (Finset.range_mono ge) fun i _ hi => h i (by simpa using hi))
  have all := (wide n outside).resolve_right (by omega)
  have five := (wide (first + 5) after).resolve_right (by omega)
  have none : ∑ i ∈ Finset.range first, f i = 0 := Finset.sum_eq_zero fun i hi => before i (by simpa using hi)
  rw [Finset.sum_range_add, none, zero_add, ← all] at five
  exact five

/-- Settles O18: outside the five samples read a weight is 0, and the weights telescope along the span. -/
theorem horizontalValueAveragesOverlap : Obligations.HorizontalValueAveragesOverlap := by
  intro S row j low high inside
  refine ⟨?_, ?_⟩
  · unfold horizontalValue
    rw [← sum_window row.length (j * S / 256)]
    · intro i h; rw [overlap_before h, Nat.zero_mul]
    · intro i h; rw [overlap_after high h, Nat.zero_mul]
    · intro i h; rw [List.getD_eq_default _ _ h]; rfl
  · rw [sum_overlap]
    rw [Nat.succ_mul] at inside
    omega

/-! ## Despeckle -/

theorem getElem?_leftOf {r : List Bool} {c : Nat} (hc : c < r.length) :
    (leftOf r)[c]? = some (if c = 0 then false else r.getD (c - 1) false) := by
  cases c with
  | zero => rfl
  | succ c => simp [leftOf, show c < r.length - 1 by omega, List.getElem?_eq_getElem (show c < r.length by omega)]

theorem getElem?_rightOf {r : List Bool} {c : Nat} (hc : c < r.length) :
    (rightOf r)[c]? = some (r.getD (c + 1) false) := by
  unfold rightOf
  rcases Nat.lt_or_ge (c + 1) r.length with lt | ge
  · rw [List.getElem?_append_left (by simp; omega)]
    simp [List.getElem?_eq_getElem lt]
  · rw [List.getElem?_append_right (by simp; omega)]
    simp [show c - (r.length - 1) = 0 by omega, List.getElem?_eq_none ge]

theorem getElem?_addBlack {ns : List Nat} {r : List Bool} {c n : Nat} {b : Bool} (hn : ns[c]? = some n) (hb : r[c]? = some b) :
    (addBlack ns r)[c]? = some (n + b.toNat) := by
  rw [addBlack, List.getElem?_zipWith, hn, hb]

/-- The count of R89 at a column is that of its eight neighbours. -/
theorem getElem?_blackNeighbours {above row below : List Bool} {c : Nat} (hc : c < row.length)
    (ha : above.length = row.length) (hb : below.length = row.length) :
    (blackNeighbours above row below)[c]? = some (neighboursAt above row below c) := by
  have here {r : List Bool} (h : c < r.length) : r[c]? = some (r.getD c false) := by simp [h]
  have zero : (List.replicate row.length 0)[c]? = some 0 := by simp [hc]
  have a : c < above.length := ha ▸ hc
  have b : c < below.length := hb ▸ hc
  have counted := getElem?_addBlack (getElem?_addBlack (getElem?_addBlack (getElem?_addBlack (getElem?_addBlack
    (getElem?_addBlack (getElem?_addBlack (getElem?_addBlack zero (here a)) (getElem?_leftOf a)) (getElem?_rightOf a))
    (getElem?_leftOf hc)) (getElem?_rightOf hc)) (here b)) (getElem?_leftOf b)) (getElem?_rightOf b)
  refine counted.trans (congrArg some ?_)
  unfold neighboursAt
  by_cases first : c = 0
  · simp [first]
  · simp [first]; omega

theorem take_succ_reverse {rows : List (List Bool)} {k : Nat} (hk : k < rows.length) :
    (rows.take (k + 1)).reverse = rows[k] :: (rows.take k).reverse := by
  rw [List.take_succ_eq_append_getElem hk, List.reverse_append, List.reverse_singleton, List.singleton_append]

/-- Settles O21: neighbours column by column, and the window of the two rows before. -/
theorem despeckleCountsNeighbours : Obligations.DespeckleCountsNeighbours := by
  refine ⟨fun level above row below c hc ha hb => ?_, ?_⟩
  · rw [despeckle, List.getElem?_zipWith, getElem?_blackNeighbours hc ha hb, List.getElem?_eq_getElem hc]
    cases row[c]
    · simp
    · by_cases kept : level ≤ neighboursAt above row below c
      · simp [kept]; omega
      · simp [kept]; omega
  · intro level rows k hk
    refine ⟨?_, by simp [take_succ_reverse hk, List.take_take]⟩
    rcases k with _ | _ | k
    · simp [releasedRows, whiteRow]
    · simp [take_succ_reverse (show 0 < rows.length by omega), releasedRows, whiteRow]
    · simp [take_succ_reverse (show k + 1 < rows.length by omega), take_succ_reverse (show k < rows.length by omega),
        releasedRows, whiteRow]

/-! ## Runs and codes -/

theorem expandRuns_runsFrom (colour : Bool) (n : Nat) (row : List Bool) :
    expandRuns colour (runsFrom colour n row) = List.replicate n colour ++ row := by
  induction row generalizing colour n with
  | nil => simp [runsFrom, expandRuns]
  | cons p ps ih =>
    by_cases same : p = colour
    · subst same
      rw [runsFrom, if_pos rfl, ih, List.replicate_succ', List.append_assoc, List.singleton_append]
    · have swapped : (!colour) = p := by cases p <;> cases colour <;> simp_all
      rw [runsFrom, if_neg same, expandRuns, swapped, ih]
      rfl

theorem sum_runsFrom (colour : Bool) (n : Nat) (row : List Bool) : (runsFrom colour n row).sum = n + row.length := by
  induction row generalizing colour n with
  | nil => simp [runsFrom]
  | cons p ps ih =>
    rw [runsFrom]
    split
    · rw [ih, List.length_cons]; omega
    · rw [List.sum_cons, ih, List.length_cons]; omega

theorem runsFrom_pos {colour : Bool} {n : Nat} {row : List Bool} (hn : 1 ≤ n) : ∀ x ∈ runsFrom colour n row, 1 ≤ x := by
  induction row generalizing colour n with
  | nil => simpa [runsFrom]
  | cons p ps ih =>
    rw [runsFrom]
    split
    · exact ih (by omega)
    · exact fun x hx => (List.mem_cons.mp hx).elim (fun e => e ▸ hn) (ih le_rfl x)

theorem runsFrom_tail_pos {colour : Bool} {n : Nat} {row : List Bool} : ∀ x ∈ (runsFrom colour n row).tail, 1 ≤ x := by
  induction row generalizing colour n with
  | nil => simp [runsFrom]
  | cons p ps ih =>
    rw [runsFrom]
    split
    · exact ih
    · exact runsFrom_pos le_rfl

theorem runsFrom_length (colour : Bool) (n : Nat) (row : List Bool) : (runsFrom colour n row).length ≤ row.length + 1 := by
  induction row generalizing colour n with
  | nil => simp [runsFrom]
  | cons p ps ih =>
    rw [runsFrom, List.length_cons]
    split
    · exact (ih _ _).trans (by omega)
    · rw [List.length_cons]; exact Nat.succ_le_succ (ih _ _)

/-- The colour of a run goes by its place (R111). -/
theorem runListCodes_eq (black : Bool) (ns : List Nat) :
    runListCodes black ns = (ns.mapIdx (fun i n => runCodes (decide ((i + black.toNat) % 2 = 1)) n)).flatten := by
  induction ns generalizing black with
  | nil => rfl
  | cons n ns ih =>
    have turn (i : Nat) : decide ((i + (!black).toNat) % 2 = 1) = decide ((i + 1 + black.toNat) % 2 = 1) := by
      cases black
      · simp
      · simp; omega
    rw [runListCodes, ih, List.mapIdx_cons, List.flatten_cons]
    simp only [turn]
    cases black <;> simp

/-- Slot 0 holds two like sets of 104 codes of 7 bits after its four control codes (R101). -/
theorem fixedEntries_set (black : Bool) {i : Nat} (h : i < 104) :
    fixedEntries[(if black then 108 else 4) + i]? = some { length := 7, value := i } := by
  have terminals : ((List.range 64).map (fun n => { length := 7, value := n : CodeEntry })).length = 64 := by simp
  have set : ((List.range 64).map (fun n => { length := 7, value := n : CodeEntry }) ++
      (List.range 40).map (fun m => { length := 7, value := 64 + m : CodeEntry }))[i]? = some { length := 7, value := i } := by
    rcases Nat.lt_or_ge i 64 with low | high
    · rw [List.getElem?_append_left (by simpa using low)]; simp [low]
    · rw [List.getElem?_append_right (by simpa using high), terminals]
      simp [show i - 64 < 40 by omega, Nat.add_sub_cancel' high]
  unfold fixedEntries
  simp only [List.append_assoc]
  cases black
  · rw [List.getElem?_append_right (by simp), ← List.append_assoc, List.getElem?_append_left (by simp; omega)]
    simpa using set
  · rw [List.getElem?_append_right (by simp; omega), ← List.append_assoc,
      List.getElem?_append_right (by simp; omega)]
    simpa [show 108 + i - 4 - 104 = i by omega] using set

theorem codeBits_seven {v : Nat} : codeBits { length := 7, value := v } =
    v.testBit 6 :: (List.range 6).map (fun i => v.testBit (5 - i)) := by
  simp [codeBits, List.range_succ]

theorem code_terminal (black : Bool) {n : Nat} (h : n ≤ 63) :
    (fixedEntries[codeIndex (.terminal black n)]?).map codeBits =
      some (false :: (List.range 6).map (fun i => n.testBit (5 - i))) := by
  rw [codeIndex, fixedEntries_set black (by omega), Option.map_some, codeBits_seven,
    Nat.testBit_lt_two_pow (show n < 2 ^ 6 by omega)]

theorem code_bulk (black : Bool) {m : Nat} (low : 1 ≤ m) (high : m ≤ 40) :
    (fixedEntries[codeIndex (.bulk black m)]?).map codeBits =
      some (true :: (List.range 6).map (fun i => (m - 1).testBit (5 - i))) := by
  have top : (64 + (m - 1)).testBit 6 = true := by
    rw [show 64 = 2 ^ 6 by decide, Nat.testBit_two_pow_add_eq, Nat.testBit_lt_two_pow (show m - 1 < 2 ^ 6 by omega)]
    rfl
  have rest (i : Nat) : (64 + (m - 1)).testBit (5 - i) = (m - 1).testBit (5 - i) := by
    rw [show 64 = 2 ^ 6 by decide, Nat.testBit_two_pow_add_gt (by omega)]
  rw [codeIndex, Nat.add_assoc, fixedEntries_set black (by omega), Option.map_some, codeBits_seven, top]
  simp only [rest]

/-- The control code of a row decides between REPEAT, the swapped row and the row (R107). -/
theorem rowCodes_eq (p : Profile) (previous : Option (List Bool)) (row : List Bool) :
    rowCodes p previous row =
      if p.rowRepeat = true ∧ previous = some row then [.control .repeatRow]
      else if p.inversion = true ∧ row.length / 2 < row.count true then
        .control .invert :: runListCodes false (runs (row.map (!·)))
      else .control .plain :: runListCodes false (runs row) := by
  unfold rowCodes rowControl blackIn
  by_cases same : p.rowRepeat = true ∧ previous = some row
  · rw [if_pos same, if_pos same]
  · rw [if_neg same, if_neg same]
    by_cases mostlyBlack : p.inversion = true ∧ row.length / 2 < row.count true
    · rw [if_pos mostlyBlack, if_pos mostlyBlack]
    · rw [if_neg mostlyBlack, if_neg mostlyBlack]

/-- Settles O22: by induction on the row, by the three control codes, by a run's quotient by 64, and by the places of slot 0. -/
theorem runsSpellRow : Obligations.RunsSpellRow := by
  refine ⟨fun row => ⟨?_, ?_, ?_, ?_⟩, ?_, ?_, ?_⟩
  · exact expandRuns_runsFrom false 0 row
  · rw [runs, sum_runsFrom, Nat.zero_add]
  · exact runsFrom_tail_pos
  · exact runsFrom_length false 0 row
  · intro p previous row coded same mostlyBlack
    have spelled (r : List Bool) : runListCodes false (runs r) = coded r := runListCodes_eq false (runs r)
    rw [rowCodes_eq, spelled, spelled]
    exact ⟨fun h => if_pos h, fun h h' => by rw [if_neg h, if_pos h'], fun h h' => by rw [if_neg h, if_neg h']⟩
  · intro black n h
    refine ⟨fun small => if_pos (by omega), fun large => ⟨n / 64, n % 64, by omega, by omega, by omega, by omega, ?_⟩⟩
    exact if_neg (by omega)
  · refine ⟨by simp [fixedEntries], by decide, by decide, by decide, by decide, ?_, ?_⟩
    · exact fun black n h => code_terminal black h
    · exact fun black m low high => code_bulk black low high

/-! ## The coder -/

@[simp] theorem codeBits_length (e : CodeEntry) : (codeBits e).length = e.length := by simp [codeBits]

/-- What a run of the coder from `c` has done with the bits of the codes appended: the words issued and the word in hand spell
them until the attempt stops just above its limit (R112, R113, R120). -/
structure CodesAppended (limit : Nat) (c : Coder) (bits : List Bool) (r : CodeRun) : Prop where
  spelled : r.stopped = false → bitsOf r.words.flatten ++ r.coder.hand = c.hand ++ bits
  within  : r.stopped = false → r.coder.bytes ≤ limit
  above   : r.stopped = true → limit < r.coder.bytes ∧ r.coder.bytes ≤ limit + 2
  hand    : r.coder.hand.length < 64
  count   : r.coder.bitCount = 64 * r.coder.wordsWritten + r.coder.hand.length
  issued  : r.coder.wordsWritten = c.wordsWritten + r.words.length
  bytes   : r.words.flatten.length = 8 * r.words.length

theorem CodesAppended.append {entries : List CodeEntry} {limit : Nat} {c : Coder} {bits : List Bool} {r : CodeRun}
    (h : CodesAppended limit c bits r) (x : CodeName)
    (sized : 1 ≤ (entries.getD (codeIndex x) { length := 0, value := 0 }).length ∧
      (entries.getD (codeIndex x) { length := 0, value := 0 }).length ≤ 16) :
    CodesAppended limit c (bits ++ codeBits (entries.getD (codeIndex x) { length := 0, value := 0 }))
      (appendCode entries limit r x) := by
  obtain ⟨coder, words, stopped⟩ := r
  obtain ⟨bitCount, held, wordsWritten, rowsCoded, previous⟩ := coder
  obtain ⟨spelled, within, above, hand, count, issued, bytes⟩ := h
  unfold appendCode
  generalize entries.getD (codeIndex x) { length := 0, value := 0 } = e at sized ⊢
  simp only [Coder.bytes] at *
  cases stopped
  case true => exact ⟨nofun, nofun, above, hand, count, issued, bytes⟩
  case false =>
    have spelled := spelled rfl
    have within := within rfl
    rw [if_neg (by simp)]
    split
    case isTrue full =>
      have len : (held ++ codeBits e).length = held.length + e.length := by simp
      have word : bitsOf (packBytes ((held ++ codeBits e).take 64)) = (held ++ codeBits e).take 64 :=
        bitsOf_packBytes 8 _ (by rw [List.length_take]; omega)
      have wordLength : (packBytes ((held ++ codeBits e).take 64)).length = 8 :=
        packBytes_length 8 _ (by rw [List.length_take]; omega)
      refine ⟨fun _ => ?_, ?_, ?_, ?_, ?_, ?_, ?_⟩
      · rw [List.flatten_append, List.flatten_singleton, bitsOf_append, word, List.append_assoc, List.take_append_drop,
          ← List.append_assoc, spelled, List.append_assoc]
      · simp [Coder.bytes]
      · simp only [Coder.bytes, decide_eq_true_eq]; omega
      · simp only [List.length_drop]; omega
      · simp only [List.length_drop]; omega
      · simp only [List.length_append, List.length_singleton]; omega
      · rw [List.flatten_append, List.flatten_singleton, List.length_append, wordLength, List.length_append,
          List.length_singleton]
        omega
    case isFalse short =>
      have len : (held ++ codeBits e).length = held.length + e.length := by simp
      refine ⟨fun _ => ?_, ?_, ?_, ?_, ?_, issued, bytes⟩
      · rw [← List.append_assoc, spelled, List.append_assoc]
      · simp [Coder.bytes]
      · simp only [Coder.bytes, decide_eq_true_eq]; omega
      · simp only; omega
      · simp only; omega

theorem CodesAppended.appendAll {entries : List CodeEntry} {limit : Nat} {c : Coder} (names : List CodeName)
    (sized : ∀ e ∈ entries, 1 ≤ e.length ∧ e.length ≤ 16) (known : ∀ x ∈ names, codeIndex x < entries.length)
    {bits : List Bool} {r : CodeRun} (h : CodesAppended limit c bits r) :
    CodesAppended limit c
      (bits ++ names.flatMap (fun x => codeBits (entries.getD (codeIndex x) { length := 0, value := 0 })))
      (names.foldl (appendCode entries limit) r) := by
  induction names generalizing bits r with
  | nil => simpa using h
  | cons x xs ih =>
    have mem : entries.getD (codeIndex x) { length := 0, value := 0 } ∈ entries := by
      rw [List.getD_eq_getElem _ _ (known x (by simp))]
      exact List.getElem_mem _
    rw [List.flatMap_cons, ← List.append_assoc]
    exact ih (fun y hy => known y (by simp [hy])) (h.append x (sized _ mem))

/-- Settles O23: by induction on the codes, with the invariant `CodesAppended`. -/
theorem coderKeepsEveryBit : Obligations.CoderKeepsEveryBit := by
  intro entries limit names c sized known hand count within r
  have start : CodesAppended limit c [] { coder := c, words := [], stopped := false } :=
    ⟨fun _ => by simp [bitsOf], fun _ => within, nofun, hand, count, rfl, rfl⟩
  obtain ⟨spelled, within, above, hand, count, issued, bytes⟩ := start.appendAll names sized known
  exact ⟨fun go => ⟨spelled go, within go⟩, above, hand, count, by rw [bytes, issued, Nat.add_sub_cancel_left]⟩

/-! ## The ingress hold line -/

/-- Settles O27: the line is its causes, part state by part state. -/
theorem holdLineFollowsCauses : Obligations.HoldLineFollowsCauses := by
  intro s
  refine ⟨fun held => ?_, fun linkOnly => ?_, fun operating => ?_⟩
  · simp only [ingressHoldLine, held]
  · rcases linkOnly with part | part <;> simp [ingressHoldLine, part]
  · simp only [ingressHoldLine, operating, continuousCause, Bool.or_eq_true, decide_eq_true_eq, or_assoc]
    cases pacing : s.fmc.pacing <;> simp [freeSlots, freeItems, effectiveDuty, pacing]

end Sys2Proof.Proofs
end

section
/-! The commands of the ingress link: framing, the monitor, faulty records, and records that pass. -/

namespace Sys2Proof.Proofs
open Sys2Proof.Machine Sys2Proof.Safety Sys2Proof.Laws

/-! ## Notices and the monitor -/

theorem pushNotice_bypass {n : Notice} {s : State} (h : s.flm.part = .bypass) : pushNotice n s = s := if_pos h

/-- Outside BYPASS a notice touches the Directive Unit alone (R171). -/
theorem pushNotice_eq {n : Notice} {s : State} (h : s.flm.part ≠ .bypass) :
    pushNotice n s = { s with dru := noticed n s.dru } := by
  unfold pushNotice noticed
  rw [if_neg h]
  by_cases room : s.dru.notices.length < 16
  · rw [if_pos (show _ < Config.noticeCapacity from room), if_pos room]
  · rw [if_neg (show ¬ _ < Config.noticeCapacity from room), if_neg room]

theorem pushNotices_eq (ns : List Notice) {s : State} (h : s.flm.part ≠ .bypass) :
    pushNotices ns s = { s with dru := noticedAll ns s.dru } := by
  induction ns generalizing s with
  | nil => rfl
  | cons n ns ih =>
    rw [pushNotices, List.foldl_cons, ← pushNotices, pushNotice_eq h, ih (by exact h)]
    rfl

/-- A change of the monitor's state makes a LINK notice where they are on (R13). -/
theorem setMonitor_eq (m : Monitor) {s : State} (h : s.flm.part ≠ .bypass) :
    setMonitor m s = { s with
      ilu := { s.ilu with monitor := m }
      dru := if s.sus.working.linkNotices = true ∧ m.state ≠ s.ilu.monitor.state then
          noticed (linkNotice (monitorByte m.state) (monitorByte s.ilu.monitor.state) m.count) s.dru
        else s.dru } := by
  unfold setMonitor
  by_cases made : s.sus.working.linkNotices = true ∧ m.state ≠ s.ilu.monitor.state
  · simp only [made, if_true, ne_eq, not_false_eq_true, and_self]
    exact pushNotice_eq h
  · simp only [if_neg made]

/-- Settles O28: with and without an open record, in each part state. -/
theorem startOfRecordOpensRecord : Obligations.StartOfRecordOpensRecord := by
  intro s held faults
  have opens : exec .startOfRecord s = .next (
      if s.flm.part = .bypass then { s with ilu := { s.ilu with recordOpen := true, headerFaults := faults } }
      else if s.ilu.monitor.state = .down then
        setMonitor (enterMonitor .hunt s.ilu.monitor)
          { s with ilu := { s.ilu with recordOpen := true, headerFaults := faults, activityTimer := true } }
      else { s with ilu := { s.ilu with recordOpen := true, headerFaults := faults, activityTimer := true } }) := by
    simp only [exec, execStartOfRecord, if_neg held, faults]
    cases s.ilu.recordOpen <;> rfl
  rw [opens]
  refine ⟨fun bypass => by rw [if_pos bypass], fun bypass up => by rw [if_neg bypass, if_neg up], fun bypass down => ?_⟩
  rw [if_neg bypass, if_pos down, setMonitor_eq _ (by exact bypass)]
  simp [enterMonitor, down, linkNotice, monitorByte]

/-- Settles O31: the timer's effect is that of `setMonitor` into DOWN. -/
theorem timersExpire : Obligations.TimersExpire := by
  intro s
  refine ⟨fun part timer => ?_, fun held => ?_⟩
  · have bypass : s.flm.part ≠ .bypass := by rcases part with h | h <;> simp [h]
    simp only [exec, execActivityTimerExpiry, if_pos (And.intro part timer)]
    rw [setMonitor_eq _ (by exact bypass)]
    cases state : s.ilu.monitor.state <;> simp [enterMonitor, linkNotice, monitorByte]
  · simp only [exec, execPacingEighth, if_neg held]
    rfl

theorem monitorBit_not_down {m : Monitor} (b : Bool) (h : m.state ≠ .down) : (monitorBit m b).state ≠ .down := by
  cases state : m.state
  case down => exact absurd state h
  case hunt => simp only [monitorBit, state, huntBit]; split_ifs <;> simp [enterMonitor]
  case sync => simp only [monitorBit, state, syncBit]; split_ifs <;> simp [enterMonitor]

/-- The LINK notice of one bit (R13). -/
theorem bitNotices_cons (m : Monitor) (b : Bool) (bs : List Bool) :
    bitNotices m (b :: bs) =
      (if (monitorBit m b).state ≠ m.state then
        [linkNotice (monitorByte (monitorBit m b).state) (monitorByte m.state) (monitorBit m b).count] else []) ++
        bitNotices (monitorBit m b) bs := by
  rw [bitNotices]
  congr 1
  by_cases down : m.state = .down
  · simp [monitorBit, down]
  · have up := monitorBit_not_down b down
    generalize monitorBit m b = m' at up ⊢
    cases old : m.state <;> cases new : m'.state <;> simp_all [monitorByte]

theorem bitNotices_down {m : Monitor} (h : m.state = .down) (bits : List Bool) : bitNotices m bits = [] := by
  induction bits with
  | nil => rfl
  | cons b bits ih => rw [bitNotices_cons, monitorBit, h]; simp [h, ih]

/-- The monitor takes the bits, and beside it only notices are made (R10, R13). -/
theorem monitorBits_eq (bits : List Bool) {s : State} (h : s.flm.part ≠ .bypass) :
    monitorBits bits s = { s with
      ilu := { s.ilu with monitor := bits.foldl monitorBit s.ilu.monitor }
      dru := if s.sus.working.linkNotices then noticedAll (bitNotices s.ilu.monitor bits) s.dru else s.dru } := by
  induction bits generalizing s with
  | nil => cases on : s.sus.working.linkNotices <;> simp [monitorBits, bitNotices, noticedAll]
  | cons b bits ih =>
    rw [monitorBits, List.foldl_cons, ← monitorBits, setMonitor_eq _ h, ih (by exact h), bitNotices_cons]
    cases on : s.sus.working.linkNotices
    · simp
    · by_cases changed : (monitorBit s.ilu.monitor b).state = s.ilu.monitor.state <;> simp [changed, noticedAll]

theorem noticedAll_with (ns : List Notice) (d : Dru) :
    ∃ notices lost, noticedAll ns d = { d with notices := notices, lost := lost } := by
  induction ns generalizing d with
  | nil => exact ⟨d.notices, d.lost, rfl⟩
  | cons n ns ih =>
    obtain ⟨notices, lost, made⟩ := ih (noticed n d)
    refine ⟨notices, lost, made.trans ?_⟩
    unfold noticed
    split <;> rfl

/-- Making notices changes nothing but the notice queue and the count of lost ones (R171). -/
theorem noticedAll_frame (ns : List Notice) (d : Dru) :
    noticedAll ns d = { d with notices := (noticedAll ns d).notices, lost := (noticedAll ns d).lost } := by
  obtain ⟨notices, lost, made⟩ := noticedAll_with ns d
  rw [made]

/-- Settles O30: the exact next state, and what it leaves alone. -/
theorem fillFeedsMonitor : Obligations.FillFeedsMonitor := by
  intro s target raw part receiving short
  have bypass : s.flm.part ≠ .bypass := by rcases part with h | h <;> simp [h]
  have held : s.flm.part ≠ .held := by rcases part with h | h <;> simp [h]
  have sound : headerFaulty { kind := 0x00, target := target, body := raw } = false := by
    have small : ¬ Config.maxPayload < raw.payload.length := Nat.not_lt.mpr short
    simp [headerFaulty, small, isStreamKind, isManagementKind]
  have result : exec (.fill target raw) s = .next { s with
      ilu := { s.ilu with recordOpen := false, monitor := (bitsOf raw.payload).foldl monitorBit s.ilu.monitor }
      dru := if s.sus.working.linkNotices then noticedAll (bitNotices s.ilu.monitor (bitsOf raw.payload)) s.dru
        else s.dru } := by
    simp only [exec, execFill]
    rw [recordArrives_sound _ _ _ receiving held sound, endReceiving_flm, if_neg bypass, monitorBits_eq _ (by exact bypass)]
    rfl
  refine ⟨⟨_, result, rfl, ?_, ?_⟩, result⟩
  · simp only
    split
    · rw [← noticedAll_frame]
    · rfl
  · rintro (off | ⟨-, down⟩)
    · simp [off]
    · simp [bitNotices_down down, noticedAll]

/-! ## Records dropped -/

theorem parseRecord_short {bytes : List Byte} (h : bytes.length < 8) : parseRecord bytes = none := by
  unfold parseRecord
  split
  · simp at h; omega
  · rfl

/-- The conditions of R2 on the bytes of a record. -/
theorem parseRecord_faulty {bytes : List Byte}
    (h : bytes.length < 8 ∨ (crc16 (bytes.take 6)).toNat ≠ param bytes 6 2 ∨ 16384 < param bytes 2 2 ∨
      bytes.length ≠ (if param bytes 2 2 = 0 then 8 else param bytes 2 2 + 12) ∨
      (bytes.getD 0 0 ∈ [0x10, 0x11, 0x12, 0x13, 0x14, 0x20, 0x21, 0x22] ∧ 15 < (bytes.getD 1 0).toNat) ∨
      (bytes.getD 0 0 ∈ [0x30, 0x31] ∧ 31 < (bytes.getD 1 0).toNat)) : parseRecord bytes = none := by
  rcases Nat.lt_or_ge bytes.length 8 with short | long
  · exact parseRecord_short short
  · match bytes, long with
    | k :: t :: l1 :: l0 :: g1 :: g0 :: c1 :: c0 :: rest, _ =>
      simp only [param, List.drop_succ_cons, List.drop_zero, List.take_succ_cons, List.take_zero, List.getD_cons_zero,
        List.getD_cons_succ, List.length_cons] at h
      simp only [parseRecord]
      by_cases crc : (crc16 [k, t, l1, l0, g1, g0]).toNat ≠ beNat [c1, c0]
      · exact if_pos crc
      by_cases large : Config.maxPayload < beNat [l1, l0]
      · rw [if_neg crc, if_pos large]
      by_cases length : rest.length ≠ (if beNat [l1, l0] = 0 then 0 else beNat [l1, l0] + 4)
      · rw [if_neg crc, if_neg large, if_pos length]
      rw [if_neg crc, if_neg large, if_neg length]
      refine if_pos (Classical.byContradiction fun sound => ?_)
      simp only [headerFaulty, Bool.or_eq_true, Bool.and_eq_true, decide_eq_true_eq, not_or, not_and] at sound
      obtain ⟨⟨-, stream⟩, management⟩ := sound
      rcases h with h | h | h | h | ⟨kind, target⟩ | ⟨kind, target⟩
      · omega
      · exact h (not_not.mp crc)
      · exact large h
      · apply h; split_ifs at length ⊢ <;> omega
      · exact stream (by simpa [isStreamKind, or_assoc] using kind) target
      · exact management (by simpa [isManagementKind] using kind) target

end Sys2Proof.Proofs
end

section
/-! Records that arrive: faulty ones, orphans, and records that pass. -/

namespace Sys2Proof.Proofs
open Sys2Proof.Machine Sys2Proof.Safety Sys2Proof.Laws

/-! ## Where a record goes -/

theorem byteOf_ofNat_val {n : Nat} [NeZero n] {b : Byte} (h : b.toNat < n) : byteOf (Fin.ofNat n b.toNat).val = b := by
  rw [Fin.val_ofNat, Nat.mod_eq_of_lt h, byteOf_toNat]

theorem byteOf_val_toNat {n : Nat} (i : Fin n) (h : n ≤ 256 := by decide) : (byteOf i.val).toNat = i.val :=
  toNat_byteOf (i.isLt.trans_le h)

/-- A command's meaning is that the record `r` arrives, and in BYPASS passes (R4 to R6). -/
def Arrives (r : Record) (f : State → State) : Prop :=
  ∃ destination, (∀ s, f s = recordArrives r destination s) ∧
    (headerFaulty r = false → ∀ s, s.flm.part = .bypass → destination s = offerPass r s)

theorem rawDestination_pass (r : Record) (st : Stream) (consume : State → State) {s : State}
    (h : ¬ (s.flm.part = .operating ∧ (s.stk.map[st]).role = .own)) : rawDestination r st consume s = offerPass r s := if_neg h

theorem arrives_raw (r : Record) (st : Stream) (consume : State → State) :
    Arrives r (recordArrives r (rawDestination r st consume)) :=
  ⟨_, fun _ => rfl, fun _ _ bypass => rawDestination_pass r st consume (by simp [bypass])⟩

theorem arrives_passed (r : Record) : Arrives r (recordArrives r (offerPass r)) := ⟨_, fun _ => rfl, fun _ _ _ => rfl⟩

theorem arrives_fill (r : Record) (bits : List Bool) :
    Arrives r (recordArrives r (fun s => if s.flm.part = .bypass then offerPass r s else monitorBits bits s)) :=
  ⟨_, fun _ => rfl, fun _ _ bypass => if_pos bypass⟩

/-- Where a directive goes outside reset (R4 to R6). -/
def directiveDestination (st : Fin 32) (rec : Carried) (act : List Byte → Tag → State → State) (s : State) : State :=
  if s.flm.part = .bypass then offerPass (directiveRecord st rec) s
  else if st.val = Config.broadcast then offerPass (directiveRecord st rec) (takeDirective rec act s)
  else if st.val = s.sus.working.station then
    if s.flm.part = .starting then offerPass (directiveRecord st rec) (takeDirective rec act s) else takeDirective rec act s
  else offerPass (directiveRecord st rec) s

theorem directiveArrives_eq (st : Fin 32) (rec : Carried) (act : List Byte → Tag → State → State) (s : State) :
    directiveArrives st rec act s = recordArrives (directiveRecord st rec) (directiveDestination st rec act) s := rfl

theorem arrives_directive (st : Fin 32) (rec : Carried) (act : List Byte → Tag → State → State) :
    Arrives (directiveRecord st rec) (directiveArrives st rec act) :=
  ⟨directiveDestination st rec act, fun _ => rfl, fun _ _ bypass => if_pos bypass⟩

/-- A record of a known kind goes where the command of that kind sends it. -/
theorem arrives_any {r : Record} (known : isKnownKind r.kind = true) : Arrives r (anyRecordArrives r) := by
  by_cases faulty : headerFaulty r = true
  · exact ⟨id, fun s => if_pos faulty, fun sound => absurd faulty (by simp [sound])⟩
  · obtain ⟨kind, target, body⟩ := r
    have dispatched (f : State → State) (r' : Record) (same : r' = { kind := kind, target := target, body := body })
        (any : ∀ s, anyRecordArrives { kind := kind, target := target, body := body } s = f s) (arrives : Arrives r' f) :
        Arrives { kind := kind, target := target, body := body }
          (anyRecordArrives { kind := kind, target := target, body := body }) := by
      subst same
      rwa [funext any]
    have stream (k : isStreamKind kind = true) : byteOf (Fin.ofNat 16 target.toNat).val = target :=
      byteOf_ofNat_val (by simp [headerFaulty, k] at faulty; omega)
    have station (k : isManagementKind kind = true) : byteOf (Fin.ofNat 32 target.toNat).val = target :=
      byteOf_ofNat_val (by simp [headerFaulty, k] at faulty; omega)
    simp only [isKnownKind, isStreamKind, isManagementKind, Bool.or_eq_true, decide_eq_true_eq, or_assoc] at known
    rcases known with k | k | k | k | k | k | k | k | k | k | k <;> subst k
    · exact dispatched _ _ rfl (fun s => if_neg faulty) (arrives_fill _ _)
    · exact dispatched _ _ (by rw [stream rfl]) (fun s => if_neg faulty) (arrives_raw _ _ _)
    · exact dispatched _ _ (by rw [stream rfl]) (fun s => if_neg faulty) (arrives_raw _ _ _)
    · exact dispatched _ _ (by rw [stream rfl]) (fun s => if_neg faulty) (arrives_raw _ _ _)
    · exact dispatched _ _ (by rw [stream rfl]) (fun s => if_neg faulty) (arrives_raw _ _ _)
    · exact dispatched _ _ (by rw [stream rfl]) (fun s => if_neg faulty) (arrives_raw _ _ _)
    · exact dispatched _ _ (by rw [stream rfl]; rfl) (fun s => if_neg faulty) (arrives_passed _)
    · exact dispatched _ _ (by rw [stream rfl]; rfl) (fun s => if_neg faulty) (arrives_passed _)
    · exact dispatched _ _ (by rw [stream rfl]; rfl) (fun s => if_neg faulty) (arrives_passed _)
    · exact dispatched _ _ (by rw [directiveRecord, station rfl]) (fun s => if_neg faulty) (arrives_directive _ _ _)
    · exact dispatched _ _ (by rw [station rfl]) (fun s => if_neg faulty) (arrives_passed _)

/-! ## A directive leaves the link in its record -/

/-- The link goes on sending what it sends. -/
def KeepsLink (f : State → State) : Prop := ∀ s, s.elu.link ≠ .between → (f s).elu.link = s.elu.link

theorem answer_keepsLink (p : List Byte) (tag : Tag) (status : Status) (fields : List Byte) :
    KeepsLink (answer p tag status fields) := fun s _ => by rw [answer_elu]

theorem checkRange_keepsLink (p : List Byte) (tag : Tag) {ranges : State → List (Nat × Bool)} {act : State → State}
    (h : KeepsLink act) : KeepsLink (fun s => checkRange (ranges s) p tag act s) := by
  intro s sending
  unfold checkRange
  simp only
  split
  · exact answer_keepsLink _ _ _ _ s sending
  · exact h s sending

theorem checkQuiescedLoad_keepsLink (p : List Byte) (tag : Tag) {act : State → State} (h : KeepsLink act) :
    KeepsLink (checkQuiescedLoad p tag act) := by
  intro s sending
  unfold checkQuiescedLoad
  split
  · exact h s sending
  · exact answer_keepsLink _ _ _ _ s sending

theorem actStatusQuery_keepsLink (p : List Byte) (tag : Tag) : KeepsLink (actStatusQuery p tag) := by
  refine checkRange_keepsLink p tag fun s _ => ?_
  simp only
  split <;> simp [clearCounts]

theorem actWriteProfile_keepsLink (p : List Byte) (tag : Tag) : KeepsLink (actWriteProfile p tag) :=
  checkRange_keepsLink p tag fun s _ => by simp

theorem actReadProfile_keepsLink (parity : Option ParityRead) (p : List Byte) (tag : Tag) :
    KeepsLink (actReadProfile parity p tag) := by
  refine checkRange_keepsLink p tag fun s sending => ?_
  simp only
  split
  · rw [latch_elu sending]
  · simp

theorem actLoadCodeTable_keepsLink (p : List Byte) (tag : Tag) : KeepsLink (actLoadCodeTable p tag) := by
  refine checkQuiescedLoad_keepsLink p tag (checkRange_keepsLink p tag fun s _ => ?_)
  simp only
  split <;> simp

theorem actLoadToneCurve_keepsLink (p : List Byte) (tag : Tag) : KeepsLink (actLoadToneCurve p tag) :=
  checkQuiescedLoad_keepsLink p tag (checkRange_keepsLink p tag fun s _ => by simp)

theorem actLoadRule_keepsLink (p : List Byte) (tag : Tag) : KeepsLink (actLoadRule p tag) :=
  checkQuiescedLoad_keepsLink p tag (checkRange_keepsLink p tag fun s _ => by simp)

theorem actSetStreamRole_keepsLink (parity : Option ParityRead) (p : List Byte) (tag : Tag) :
    KeepsLink (actSetStreamRole parity p tag) := by
  refine checkRange_keepsLink p tag fun s sending => ?_
  simp only
  split
  · rw [latch_elu sending]
  · split <;> simp

theorem actQuiesce_keepsLink (p : List Byte) (tag : Tag) : KeepsLink (actQuiesce p tag) := by
  intro s _
  unfold actQuiesce
  simp only
  split_ifs <;> simp

theorem actResume_keepsLink (p : List Byte) (tag : Tag) : KeepsLink (actResume p tag) := fun s _ => by simp [actResume]

theorem applyPendings_elu (sts : List Stream) (s : State) : (sts.foldl (fun s st => applyPending st s) s).elu = s.elu := by
  induction sts generalizing s with
  | nil => rfl
  | cons st sts ih => exact (ih _).trans (by simp)

theorem actRestart_keepsLink (p : List Byte) (tag : Tag) : KeepsLink (actRestart p tag) := fun s _ => by
  rw [actRestart_eq]
  simp [workDropped, applyPendings_elu]

theorem actSetPacing_keepsLink (p : List Byte) (tag : Tag) : KeepsLink (actSetPacing p tag) :=
  checkRange_keepsLink p tag fun s _ => by simp

theorem relTry_none_keepsLink : KeepsLink (relTry none) := fun s _ => by
  obtain ⟨items, position, release, same⟩ := relTry_none_frame s
  rw [same]

theorem actFence_keepsLink (p : List Byte) (tag : Tag) : KeepsLink (actFence p tag) := by
  refine checkRange_keepsLink p tag fun s sending => ?_
  simp only
  split
  · simp
  · exact (relTry_none_keepsLink _ (by simpa using sending)).trans (by simp)

theorem actMarkLinkError_keepsLink (p : List Byte) (tag : Tag) : KeepsLink (actMarkLinkError p tag) := fun s _ => by
  simp [actMarkLinkError]

theorem actWriteStartUp_keepsLink (p : List Byte) (tag : Tag) : KeepsLink (actWriteStartUp p tag) := by
  refine checkRange_keepsLink p tag fun s _ => ?_
  simp only
  split <;> simp

theorem actReadStartUp_keepsLink (p : List Byte) (tag : Tag) : KeepsLink (actReadStartUp p tag) := by
  intro s _
  unfold actReadStartUp
  split <;> simp

theorem actByCode_keepsLink (p : List Byte) (tag : Tag) : KeepsLink (actByCode p tag) := by
  intro s sending
  unfold actByCode
  split
  · exact actStatusQuery_keepsLink _ _ s sending
  · exact actWriteProfile_keepsLink _ _ s sending
  · exact actReadProfile_keepsLink _ _ _ s sending
  · exact actLoadCodeTable_keepsLink _ _ s sending
  · exact actLoadToneCurve_keepsLink _ _ s sending
  · exact actLoadRule_keepsLink _ _ s sending
  · exact actSetStreamRole_keepsLink _ _ _ s sending
  · exact actQuiesce_keepsLink _ _ s sending
  · exact actResume_keepsLink _ _ s sending
  · exact actRestart_keepsLink _ _ s sending
  · exact actSetPacing_keepsLink _ _ s sending
  · exact actFence_keepsLink _ _ s sending
  · exact actMarkLinkError_keepsLink _ _ s sending
  · exact actWriteStartUp_keepsLink _ _ s sending
  · exact actReadStartUp_keepsLink _ _ s sending
  · rfl

/-! ## The directives among the commands -/

theorem headerFaulty_directive {target : Byte} {body : Carried} (small : target.toNat ≤ 31)
    (short : body.payload.length ≤ 16384) : headerFaulty { kind := 0x30, target := target, body := body } = false := by
  have notLong : ¬ Config.maxPayload < body.payload.length := Nat.not_lt.mpr short
  simp [headerFaulty, isStreamKind, isManagementKind, notLong, small]

theorem anyRecordArrives_directive {target : Byte} {body : Carried} (small : target.toNat ≤ 31)
    (short : body.payload.length ≤ 16384) (s : State) :
    anyRecordArrives { kind := 0x30, target := target, body := body } s =
      directiveArrives (Fin.ofNat 32 target.toNat) body actByCode s :=
  if_neg (Bool.eq_false_iff.mp (headerFaulty_directive small short))

/-- A command that carries a directive: it is taken by `act`, for whichever station it is addressed to (R5, R21). -/
theorem exec_directive {c : Instr} {r : Record} (carries : recordOf c = some r) (kind : r.kind = 0x30)
    (small : r.target.toNat ≤ 31) (short : r.body.payload.length ≤ 16384) :
    ∃ (st : Fin 32) (act : List Byte → Tag → State → State), r = directiveRecord st r.body ∧ st.val = r.target.toNat ∧
      (∀ s, exec c s = .next (directiveArrives st r.body act s)) ∧
      (∀ own s, exec (readdressed own c) s = .next (directiveArrives own r.body act s)) ∧
      ∀ p tag, KeepsLink (act p tag) := by
  have addressed (c : Instr) (st : Fin 32) (rec : Carried) (act : List Byte → Tag → State → State)
      (carries : some (directiveRecord st rec) = some r)
      (here : exec c = fun s => .next (directiveArrives st rec act s))
      (there : (fun own => exec (readdressed own c)) = fun own s => .next (directiveArrives own rec act s))
      (keeps : ∀ p tag, KeepsLink (act p tag)) :
      ∃ (st : Fin 32) (act : List Byte → Tag → State → State), r = directiveRecord st r.body ∧ st.val = r.target.toNat ∧
        (∀ s, exec c s = .next (directiveArrives st r.body act s)) ∧
        (∀ own s, exec (readdressed own c) s = .next (directiveArrives own r.body act s)) ∧
        ∀ p tag, KeepsLink (act p tag) := by
    cases carries
    exact ⟨st, act, rfl, (byteOf_val_toNat st).symm, congrFun here, fun own => congrFun (congrFun there own), keeps⟩
  cases c with
  | directiveOtherStation st raw | directiveUnknownCode st raw =>
    cases carries
    exact ⟨st, actByCode, rfl, (byteOf_val_toNat st).symm, fun _ => rfl, fun _ _ => rfl, actByCode_keepsLink⟩
  | statusQuery d => exact addressed _ d.target _ _ carries rfl rfl (actStatusQuery_keepsLink)
  | writeProfile d => exact addressed _ d.target _ _ carries rfl rfl (actWriteProfile_keepsLink)
  | readProfile d p => exact addressed _ d.target _ _ carries rfl rfl (actReadProfile_keepsLink p)
  | loadCodeTable d => exact addressed _ d.target _ _ carries rfl rfl (actLoadCodeTable_keepsLink)
  | loadToneCurve d => exact addressed _ d.target _ _ carries rfl rfl (actLoadToneCurve_keepsLink)
  | loadRule d => exact addressed _ d.target _ _ carries rfl rfl (actLoadRule_keepsLink)
  | setStreamRole d => exact addressed _ d.target _ _ carries rfl rfl (actSetStreamRole_keepsLink d.parity)
  | quiesce d => exact addressed _ d.target _ _ carries rfl rfl (actQuiesce_keepsLink)
  | resume d => exact addressed _ d.target _ _ carries rfl rfl (actResume_keepsLink)
  | restart d => exact addressed _ d.target _ _ carries rfl rfl (actRestart_keepsLink)
  | setPacing d => exact addressed _ d.target _ _ carries rfl rfl (actSetPacing_keepsLink)
  | fence d => exact addressed _ d.target _ _ carries rfl rfl (actFence_keepsLink)
  | markLinkError d => exact addressed _ d.target _ _ carries rfl rfl (actMarkLinkError_keepsLink)
  | writeStartUp d => exact addressed _ d.target _ _ carries rfl rfl (actWriteStartUp_keepsLink)
  | readStartUp d => exact addressed _ d.target _ _ carries rfl rfl (actReadStartUp_keepsLink)
  | unknownKind k target raw =>
    cases carries
    obtain rfl : k = 0x30 := kind
    have station : byteOf (Fin.ofNat 32 target.toNat).val = target := byteOf_ofNat_val (Nat.lt_succ_of_le small)
    refine ⟨Fin.ofNat 32 target.toNat, actByCode, by rw [directiveRecord, station], ?_, fun s => ?_, fun own s => ?_, actByCode_keepsLink⟩
    · exact Nat.mod_eq_of_lt (Nat.lt_succ_of_le small)
    · exact congrArg _ (anyRecordArrives_directive small short s)
    · have readdressed := byteOf_val_toNat own
      refine congrArg _ ((anyRecordArrives_directive (by omega) short s).trans ?_)
      rw [readdressed, Fin.ofNat_val_eq_self]
  | producedRecord k st raw => cases k <;> cases carries <;> simp at kind
  | itemOpen st raw p | faceOpen st raw p | strip st raw p | itemClose st raw p | itemCancel st raw p | notice st raw
  | fill target raw => cases carries; simp at kind
  | _ => cases carries

/-! ## Every arrival -/

/-- The part with the record of this command counted, where its kind is unknown (R7). -/
def kindCounted (c : Instr) (s : State) : State :=
  match c with
  | .unknownKind _ _ _ => { s with ilu := { s.ilu with unknownKinds := satInc s.ilu.unknownKinds } }
  | _ => s

/-- Every command that carries a record makes it arrive; in BYPASS, and where it passes, it is offered to the FIFO (R4 to R6). -/
theorem exec_arrival {c : Instr} {r : Record} (carries : recordOf c = some r) :
    ∃ destination, (∀ s, exec c s = .next (recordArrives r destination s)) ∧
      (headerFaulty r = false → ∀ s, s.flm.part = .bypass → destination s = offerPass r s) ∧
      (headerFaulty r = false → ∀ s, s.flm.part = .starting ∨ s.flm.part = .operating → passesThrough s c = true →
        destination s = offerPass r (kindCounted c s)) := by
  have raw (st : Stream) (consume : State → State) (r : Record) (s : State)
      (passes : (decide (s.flm.part = .starting) || decide ((s.stk.map[st]).role = .pass)) = true) :
      rawDestination r st consume s = offerPass r s := by
    refine rawDestination_pass r st consume fun own => ?_
    rw [own.1, own.2] at passes
    simp at passes
  have directive (st : Fin 32) (rec : Carried) (act : List Byte → Tag → State → State) (s : State)
      (part : s.flm.part = .starting ∨ s.flm.part = .operating)
      (passes : (decide ((byteOf st.val).toNat ≠ s.sus.working.station) && decide ((byteOf st.val).toNat ≠ 31)) = true) :
      directiveDestination st rec act s = offerPass (directiveRecord st rec) s := by
    rw [byteOf_val_toNat, Bool.and_eq_true, decide_eq_true_eq, decide_eq_true_eq] at passes
    rw [directiveDestination, if_neg (by rcases part with h | h <;> simp [h]), 
      if_neg (show ¬ st.val = Config.broadcast from passes.2), if_neg passes.1]
  cases c with
  | itemOpen st rec p | faceOpen st rec p | strip st rec p | itemClose st rec p | itemCancel st rec p =>
    cases carries
    exact ⟨_, fun _ => rfl, fun _ s bypass => rawDestination_pass _ st _ (by simp [bypass]),
      fun _ s _ passes => raw st _ _ s passes⟩
  | producedRecord k st rec =>
    cases k <;> cases carries <;> exact ⟨_, fun _ => rfl, fun _ _ _ => rfl, fun _ _ _ _ => rfl⟩
  | notice st rec => cases carries; exact ⟨_, fun _ => rfl, fun _ _ _ => rfl, fun _ _ _ _ => rfl⟩
  | fill target rec =>
    cases carries
    exact ⟨_, fun _ => rfl, fun _ s bypass => if_pos bypass, fun _ s _ passes => by simp [passesThrough] at passes⟩
  | directiveOtherStation st rec | directiveUnknownCode st rec =>
    cases carries
    exact ⟨directiveDestination st rec actByCode, fun _ => rfl, fun _ _ bypass => if_pos bypass,
      fun _ s part passes => directive st rec _ s part passes⟩
  | statusQuery d | writeProfile d | readProfile d p | loadCodeTable d | loadToneCurve d | loadRule d | setStreamRole d
  | quiesce d | resume d | restart d | setPacing d | fence d | markLinkError d | writeStartUp d | readStartUp d =>
    cases carries
    exact ⟨directiveDestination d.target _ _, fun _ => rfl, fun _ _ bypass => if_pos bypass,
      fun _ s part passes => directive d.target _ _ s part passes⟩
  | unknownKind k target rec =>
    cases carries
    cases known : isKnownKind k
    case true =>
      obtain ⟨destination, arrives, passed⟩ := arrives_any (r := { kind := k, target := target, body := rec }) known
      refine ⟨destination, fun s => ?_, passed, fun _ s _ passes => by simp [passesThrough, known] at passes⟩
      exact congrArg _ ((if_pos known).trans (arrives s))
    case false =>
      refine ⟨_, fun s => congrArg _ (if_neg (by simp [known])), fun _ s bypass => if_pos bypass, fun _ s part _ => ?_⟩
      exact if_neg (by rcases part with h | h <;> simp [h])
  | _ => cases carries

/-- A record that passes is offered to the FIFO (R4 to R6). -/
theorem exec_passes {s : State} {c : Instr} {r : Record} (carries : recordOf c = some r) (sound : headerFaulty r = false)
    (receiving : s.ilu.recordOpen = true)
    (passes : ((s.flm.part = .starting ∨ s.flm.part = .operating) ∧ passesThrough s c = true) ∨ s.flm.part = .bypass) :
    exec c s = .next (offerPass r (endReceiving (if s.flm.part = .bypass then s else kindCounted c s))) := by
  obtain ⟨destination, arrives, inBypass, outside⟩ := exec_arrival carries
  have held : s.flm.part ≠ .held := by rcases passes with ⟨h | h, -⟩ | h <;> simp [h]
  rw [arrives, recordArrives_sound _ _ _ receiving held sound]
  rcases passes with ⟨part, passes⟩ | bypass
  · have notBypass : s.flm.part ≠ .bypass := by rcases part with h | h <;> simp [h]
    have open' : passesThrough (endReceiving s) c = true := passes
    rw [outside sound (endReceiving s) part open', if_neg notBypass]
    cases c <;> rfl
  · rw [inBypass sound (endReceiving s) bypass, if_pos bypass]

/-- The part once a record that passes has ended, as the statements write it. -/
theorem endReceiving_kindCounted (c : Instr) (s : State) :
    endReceiving (if s.flm.part = .bypass then s else kindCounted c s) = { s with ilu := { s.ilu with
      recordOpen := false
      unknownKinds := match c with
        | .unknownKind _ _ _ => if s.flm.part = .bypass then s.ilu.unknownKinds else satInc s.ilu.unknownKinds
        | _ => s.ilu.unknownKinds } } := by
  by_cases bypass : s.flm.part = .bypass
  · rw [if_pos bypass]; cases c <;> simp only [bypass, if_true] <;> rfl
  · rw [if_neg bypass]; cases c <;> simp only [bypass, if_false] <;> rfl

/-! ## Records that pass -/

theorem wrote_write {m : FaceMemory} (canonical : m.wf = true) (base : Nat) (bytes : List Byte) :
    Wrote m (m.write base bytes) base bytes :=
  ⟨read_write canonical base bytes, readResult_write m base bytes⟩

theorem readBytes_write {m : FaceMemory} (canonical : m.wf = true) (base : Nat) (bytes : List Byte) :
    (m.write base bytes).readBytes base bytes.length = bytes := by
  refine List.ext_getElem (by simp [FaceMemory.readBytes]) fun i hi hi' => ?_
  simp only [FaceMemory.readBytes, List.getElem_map, List.getElem_range, read_write canonical]
  rw [if_pos ⟨by omega, by omega⟩, Nat.add_sub_cancel_left, List.getD_eq_getElem _ _ hi']

theorem offerPass_full (r : Record) {s : State} (full : 64 ≤ s.elu.fifo.length) :
    offerPass r s = { s with elu := { s.elu with overflow := satInc s.elu.overflow } } := if_neg (Nat.not_lt.mpr full)

/-- The part with a record in the pass-through FIFO, the link left as it was (R17). -/
def joined (r : Record) (s : State) : State :=
  { s with
    fmc := { s.fmc with mem := s.fmc.mem.write (passEntryBase (freePassEntry s.elu)) (recordBytes r) }
    elu := { s.elu with fifo := s.elu.fifo ++ [{ entry := freePassEntry s.elu, length := (recordBytes r).length }] } }

theorem offerPass_room (r : Record) {s : State} (room : s.elu.fifo.length < 64) : offerPass r s = wakeLink (joined r s) :=
  if_pos room

theorem wakeLink_asleep {s : State} (h : s.flm.part ≠ .bypass ∨ s.elu.link ≠ .between ∨ s.elu.holdInput = true) :
    wakeLink s = s := by
  unfold wakeLink
  split
  case isFalse => rfl
  case isTrue asleep =>
    have hold : s.elu.holdInput = true := by simpa [asleep] using h
    exact if_pos hold

/-- Settles O32: the record is offered, and where the link lies between records in BYPASS, granted at once. -/
theorem passedRecordJoinsFifo : Obligations.PassedRecordJoinsFifo := by
  intro s c r carries sound room canonical receiving e joinedFifo
  have wrote := wrote_write canonical (passEntryBase e) (recordBytes r)
  refine ⟨fun passes => ⟨freePassEntry_free s.elu room, ?_⟩, fun bypass between free quiet empty => ?_⟩
  · have offered := exec_passes carries sound receiving (passes.imp_right And.left)
    rw [endReceiving_kindCounted, offerPass_room _ (by exact room), wakeLink_asleep] at offered
    · exact ⟨_, offered, wrote, rfl⟩
    · rcases passes with ⟨part, -⟩ | ⟨-, asleep⟩
      · exact .inl (by rcases part with h | h <;> simp [joined, h])
      · exact .inr asleep
  · have offered := exec_passes carries sound receiving (.inr bypass)
    rw [if_pos bypass, offerPass_room _ (by exact room)] at offered
    refine ⟨_, offered, by simpa [joined] using wrote, ?_⟩
    have sent : passBytes (joined r (endReceiving s)) { entry := e, length := (recordBytes r).length } = recordBytes r :=
      readBytes_write canonical _ _
    have wakes : wakeLink (joined r (endReceiving s)) = grantPass (joined r (endReceiving s)) := by
      simp [wakeLink, bypassBoundary, joined, bypass, between, free, quiet]
    rw [wakes, grantPass, show (joined r (endReceiving s)).elu.fifo = [{ entry := e, length := (recordBytes r).length }] by
      simp [joined, empty, e]]
    simp only [sent]
    rfl

/-- Settles O33: offered to a full FIFO, the record is counted and dropped. -/
theorem fullFifoDropsRecord : Obligations.FullFifoDropsRecord := by
  intro s c r carries sound full receiving passes
  rw [exec_passes carries sound receiving passes, endReceiving_kindCounted, offerPass_full _ (by exact full)] <;> rfl

/-! ## Faults and orphans -/

/-- In IDLE and DISCARD a record other than ITEM OPEN is an orphan (R44). -/
theorem withOpenItem_orphan {s : State} {st : Stream} {p : Option ParityRead} (handle : ItemIx → State → State)
    (closed : (s.stk.contexts[st]).state = .idle ∨ (s.stk.contexts[st]).state = .discard) (clean : p ≠ some .context) :
    withOpenItem st p handle s = countOrphan s := by
  unfold withOpenItem
  rw [if_neg clean]
  rcases closed with h | h <;> simp only [h]

/-- A raw record of an owned stream reaches its handling in OPERATING (R4, R6). -/
theorem rawArrives_own {k : Byte} {s : State} {st : Stream} {raw : Carried} (consume : State → State)
    (stream : isStreamKind k = true ∧ isManagementKind k = false) (receiving : s.ilu.recordOpen = true)
    (operating : s.flm.part = .operating) (own : (s.stk.map[st]).role = .own) (short : raw.payload.length ≤ 16384) :
    recordArrives { kind := k, target := byteOf st.val, body := raw }
      (rawDestination { kind := k, target := byteOf st.val, body := raw } st consume) s = consume (endReceiving s) := by
  rw [recordArrives_sound _ _ _ receiving (by simp [operating]) (headerFaulty_stream k st raw stream short)]
  exact rawDestination_own _ _ _ _ operating own

theorem payloadFaulty_iff {raw : Carried} {len : Nat} :
    payloadFaulty raw len = true ↔ checkOk raw = false ∨ raw.payload.length ≠ len := by
  simp [payloadFaulty]

/-- The five raw records of an owned stream in OPERATING (R3, R4). -/
structure Owned (s : State) (st : Stream) (raw : Carried) : Prop where
  receiving : s.ilu.recordOpen = true
  operating : s.flm.part = .operating
  own : (s.stk.map[st]).role = .own
  short : raw.payload.length ≤ 16384

theorem exec_itemOpen_own {s : State} {st : Stream} {raw : Carried} (h : Owned s st raw) (p : Option ParityRead) :
    exec (.itemOpen st raw p) s = .next (
      if payloadFaulty raw 6 then countPayloadFault (endReceiving s)
      else itemOpenTaken { kind := 0x10, target := byteOf st.val, body := raw } st (BitVec.ofNat 32 (param raw.payload 0 4))
        (param raw.payload 4 1) (param raw.payload 5 1) p (endReceiving s)) :=
  congrArg _ (rawArrives_own _ (by decide) h.receiving h.operating h.own h.short)

theorem exec_faceOpen_own {s : State} {st : Stream} {raw : Carried} (h : Owned s st raw) (p : Option ParityRead) :
    exec (.faceOpen st raw p) s = .next (
      if payloadFaulty raw 7 || decide (1 < param raw.payload 0 1) then countPayloadFault (endReceiving s)
      else withOpenItem st p (faceOpenTaken st (if param raw.payload 0 1 = 0 then .front else .back)
        (param raw.payload 1 2) (param raw.payload 3 2) (param raw.payload 5 2)) (endReceiving s)) :=
  congrArg _ (rawArrives_own _ (by decide) h.receiving h.operating h.own h.short)

theorem exec_strip_own {s : State} {st : Stream} {raw : Carried} (h : Owned s st raw) (p : Option ParityRead) :
    exec (.strip st raw p) s = .next (withOpenItem st p (stripTaken st raw) (endReceiving s)) :=
  congrArg _ (rawArrives_own _ (by decide) h.receiving h.operating h.own h.short)

theorem exec_itemClose_own {s : State} {st : Stream} {raw : Carried} (h : Owned s st raw) (p : Option ParityRead) :
    exec (.itemClose st raw p) s = .next (
      if payloadFaulty raw 0 then countPayloadFault (endReceiving s)
      else withOpenItem st p (fun ix s => closeItem st ix 0 p s) (endReceiving s)) :=
  congrArg _ (rawArrives_own _ (by decide) h.receiving h.operating h.own h.short)

theorem exec_itemCancel_own {s : State} {st : Stream} {raw : Carried} (h : Owned s st raw) (p : Option ParityRead) :
    exec (.itemCancel st raw p) s = .next (
      if payloadFaulty raw 0 then countPayloadFault (endReceiving s)
      else withOpenItem st p (fun ix s => abortItem st ix .cancelled .idle p s) (endReceiving s)) :=
  congrArg _ (rawArrives_own _ (by decide) h.receiving h.operating h.own h.short)

/-- Settles O29: by the checks in their order, for each kind of record. -/
theorem faultyRecordsDroppedAndCounted : Obligations.FaultyRecordsDroppedAndCounted := by
  refine ⟨fun s held => ⟨fun cause => ⟨fun receiving => ?_, fun idle => ?_⟩, fun bytes receiving => ?_⟩,
    fun s idle => ⟨fun c r carries => ?_, fun bytes => ?_⟩, ?_⟩
  · cases cause <;> exact congrArg _ (if_pos ⟨held, receiving⟩)
  · cases cause <;> exact congrArg _ (if_neg (by simp [idle]))
  · intro len kind target faulty
    simp only [exec, execHeaderFault, discardsArrival, held, receiving, parseRecord_faulty faulty]
    rfl
  · obtain ⟨destination, arrives, -, -⟩ := exec_arrival carries
    rw [arrives, recordArrives_noRecord _ _ _ idle]
  · simp [exec, execHeaderFault, discardsArrival, idle]
  · intro s st raw p receiving operating own short closed faulted orphaned unfit
    have h : Owned s st raw := ⟨receiving, operating, own, short⟩
    have orphan (handle : ItemIx → State → State) (shut : (s.stk.contexts[st]).state = .idle ∨
        (s.stk.contexts[st]).state = .discard) (clean : p ≠ some .context) :
        withOpenItem st p handle (endReceiving s) = orphaned := withOpenItem_orphan handle shut clean
    refine ⟨fun bad => ?_, fun bad => ?_, fun bad => ⟨?_, ?_⟩, fun shut clean => ⟨?_, fun fit side => ?_, fun fit => ⟨?_, ?_⟩⟩⟩
    · rw [exec_itemOpen_own h, if_pos (payloadFaulty_iff.mpr bad)]; rfl
    · rw [exec_faceOpen_own h, if_pos (by simpa [payloadFaulty_iff] using bad)]; rfl
    · rw [exec_itemClose_own h, if_pos (payloadFaulty_iff.mpr bad)]; rfl
    · rw [exec_itemCancel_own h, if_pos (payloadFaulty_iff.mpr bad)]; rfl
    · rw [exec_strip_own h, orphan _ shut clean]
    · have sound : (payloadFaulty raw 7 || decide (1 < param raw.payload 0 1)) = false := by
        rw [Bool.or_eq_false_iff]
        exact ⟨Bool.eq_false_iff.mpr (by rwa [Ne, payloadFaulty_iff]), by simpa using side⟩
      rw [exec_faceOpen_own h, sound, if_neg (by decide), orphan _ shut clean]
    · rw [exec_itemClose_own h, if_neg (by rwa [payloadFaulty_iff]), orphan _ shut clean]
    · rw [exec_itemCancel_own h, if_neg (by rwa [payloadFaulty_iff]), orphan _ shut clean]

end Sys2Proof.Proofs
end

section
/-! The directives: how one is taken, and the effect of each. -/

namespace Sys2Proof.Proofs
open Sys2Proof.Machine Sys2Proof.Safety Sys2Proof.Laws

/-! ## Taking a directive -/

theorem not_bypass_of_operating {s : State} (h : s.flm.part = .operating) : s.flm.part ≠ .bypass := by simp [h]

theorem noticed_room (n : Notice) {d : Dru} (room : d.notices.length < 16) :
    noticed n d = { d with notices := d.notices ++ [n] } := if_pos room

theorem noticed_full (n : Notice) {d : Dru} (full : 16 ≤ d.notices.length) :
    noticed n d = { d with lost := satInc d.lost } := if_neg (Nat.not_lt.mpr full)

theorem noticedAll_room (ns : List Notice) {d : Dru} (room : d.notices.length + ns.length ≤ 16) :
    noticedAll ns d = { d with notices := d.notices ++ ns } := by
  induction ns generalizing d with
  | nil => simp [noticedAll]
  | cons n ns ih =>
    rw [List.length_cons] at room
    change noticedAll ns (noticed n d) = _
    rw [noticed_room n (by omega), ih (by simp; omega)]
    simp

theorem answer_eq (code : Byte) (ps : List Byte) (tag : Tag) (status : Status) (fields : List Byte) {s : State}
    (h : s.flm.part ≠ .bypass) :
    answer (code :: ps) tag status fields s = { s with dru := noticed (answered code tag status fields) s.dru } :=
  pushNotice_eq h

/-- Checks 1 to 4 of R168 pass, and the directive acts. -/
theorem takeDirective_acts {rec : Carried} {act : List Byte → Tag → State → State} {s : State} {n : Nat}
    (operating : s.flm.part = .operating) (check : checkOk rec = true)
    (code : directiveLength (rec.payload.headD 0).toNat = some n) (len : rec.payload.length = n) :
    takeDirective rec act s = act rec.payload rec.tag s := by
  simp only [takeDirective, check, operating, code, len]
  rw [if_neg (by decide), if_neg (by decide), if_neg (by simp)]

theorem directiveLength_le {c n : Nat} (h : directiveLength c = some n) : n ≤ 638 := by
  unfold directiveLength at h
  split at h <;> simp at h <;> omega

/-- A directive for this part alone that passes the checks before its own acts, and nothing more (R5, R168). -/
theorem directiveArrives_addressed {d : Directive} {code : Byte} {room : Nat} {s : State} (h : Addressed d code room s)
    (len : directiveLength code.toNat = some (d.params.length + 1)) (act : List Byte → Tag → State → State) :
    directiveArrives d.target (carriedOf d code) act s = act (code :: d.params) d.tag (endReceiving s) := by
  obtain ⟨received, operating, station, notAll, check, -⟩ := h
  have short := directiveLength_le len
  have sound : headerFaulty (directiveRecord d.target (carriedOf d code)) = false :=
    headerFaulty_directive (by rw [byteOf_val_toNat]; omega) (by simp [carriedOf]; omega)
  rw [directiveArrives_eq, recordArrives_sound _ _ _ received (by simp [operating]) sound, directiveDestination,
    if_neg (by simp [operating]), if_neg (show ¬ d.target.val = Config.broadcast from notAll), if_pos (by exact station),
    if_neg (by simp [operating])]
  exact takeDirective_acts operating check len rfl

theorem addressed_room {d : Directive} {code : Byte} {room : Nat} {s : State} (h : Addressed d code room s)
    (some : 1 ≤ room := by decide) : s.dru.notices.length < 16 := by have := h.space; omega

/-- The ANSWER at the end of a directive's effect (R167, R171). -/
theorem answer_made {d : Directive} {code : Byte} {room : Nat} {s t : State} (h : Addressed d code room s)
    (part : t.flm = s.flm) (notices : t.dru.notices = s.dru.notices) (status : Status) (fields : List Byte)
    (some : 1 ≤ room := by decide) :
    answer (code :: d.params) d.tag status fields t =
      { t with dru := { t.dru with notices := s.dru.notices ++ [answered code d.tag status fields] } } := by
  rw [answer_eq _ _ _ _ _ (not_bypass_of_operating (part ▸ h.operating)),
    noticed_room _ (notices ▸ addressed_room h some), notices]

/-- An ANSWER alone. -/
theorem answer_queued {d : Directive} {code : Byte} {room : Nat} {s : State} (h : Addressed d code room s)
    (status : Status) (fields : List Byte) (some : 1 ≤ room := by decide) :
    answer (code :: d.params) d.tag status fields (endReceiving s) = queued [answered code d.tag status fields] s :=
  answer_made (t := endReceiving s) h rfl rfl status fields some

/-! ## Ranges -/

theorem checkRange_bad {ranges : List (Nat × Bool)} {o : Nat} (bad : firstBad ranges = some o) (p : List Byte) (tag : Tag)
    (act : State → State) (s : State) : checkRange ranges p tag act s = answer p tag .range (toBE 2 o) s := by
  rw [checkRange, firstOutOfRange_eq_firstBad, bad]

theorem checkRange_ok {ranges : List (Nat × Bool)} (ok : firstBad ranges = none) (p : List Byte) (tag : Tag)
    (act : State → State) (s : State) : checkRange ranges p tag act s = act s := by
  rw [checkRange, firstOutOfRange_eq_firstBad, ok]

theorem inRange_eq (p : List Byte) (o n lo hi : Nat) : (o, inRange lo hi (param p o n)) = within p o n lo hi := by
  simp [within, inRange]

@[simp] theorem within_snd (p : List Byte) (o n lo hi : Nat) :
    (within p o n lo hi).2 = true ↔ lo ≤ param p o n ∧ param p o n ≤ hi := by simp [within]

theorem firstBad_none_iff (fields : List (Nat × Bool)) : firstBad fields = none ↔ ∀ x ∈ fields, x.2 = true := by
  rw [← firstOutOfRange_eq_firstBad, firstOutOfRange_eq_none_iff]

theorem firstBad_cons_bad {x : Nat × Bool} (rest : List (Nat × Bool)) (h : x.2 = false) : firstBad (x :: rest) = some x.1 := by
  simp [firstBad, h]

theorem firstBad_cons_ok {x : Nat × Bool} (rest : List (Nat × Bool)) (h : x.2 = true) : firstBad (x :: rest) = firstBad rest := by
  simp [firstBad, h]

theorem toneValid_eq (d : Dru) (n : Nat) :
    toneValid d n = decide (n = 0 ∨ ∃ i : Fin 7, n = i.val + 1 ∧ (d.toneSlots[i]).valid = true) := by
  rw [Bool.eq_iff_iff, decide_eq_true_eq, toneValid, Bool.or_eq_true, decide_eq_true_eq]
  rcases n with _ | n
  · simp
  · by_cases small : n < 7
    · simp only [Nat.add_sub_cancel, small, dite_true, Nat.succ_ne_zero, false_or]
      refine ⟨fun valid => ⟨⟨n, small⟩, rfl, valid⟩, fun ⟨i, same, valid⟩ => ?_⟩
      obtain rfl : n = i.val := by omega
      exact valid
    · simp only [Nat.add_sub_cancel, small, dite_false, Nat.succ_ne_zero, false_or]
      exact ⟨nofun, fun ⟨i, same, _⟩ => absurd i.isLt (by omega)⟩

theorem codeValid_eq (d : Dru) (n : Nat) :
    codeValid d n = decide (n = 0 ∨ ∃ i : Fin 3, n = i.val + 1 ∧ (d.codeSlots[i]).valid = true) := by
  rw [Bool.eq_iff_iff, decide_eq_true_eq, codeValid, Bool.or_eq_true, decide_eq_true_eq]
  rcases n with _ | n
  · simp
  · by_cases small : n < 3
    · simp only [Nat.add_sub_cancel, small, dite_true, Nat.succ_ne_zero, false_or]
      refine ⟨fun valid => ⟨⟨n, small⟩, rfl, valid⟩, fun ⟨i, same, valid⟩ => ?_⟩
      obtain rfl : n = i.val := by omega
      exact valid
    · simp only [Nat.add_sub_cancel, small, dite_false, Nat.succ_ne_zero, false_or]
      exact ⟨nofun, fun ⟨i, same, _⟩ => absurd i.isLt (by omega)⟩

theorem profileRanges_eq (d : Dru) (p : List Byte) : profileRanges d p = profileFields d p := by
  simp only [profileRanges, profileFields, inRange_eq, toneValid_eq, codeValid_eq]

theorem codeTableRanges_eq (p : List Byte) : codeTableRanges p = codeTableFields p := by
  simp only [codeTableRanges, codeTableFields, inRange_eq, codeEntryOk, codeEntryOf]
  congr 1
  refine List.map_congr_left fun j _ => ?_
  refine Prod.ext rfl ?_
  simp only [inRange, Bool.decide_and, Bool.and_assoc]
  rfl

theorem ruleRanges_eq (p : List Byte) : ruleRanges p = ruleFields p := by
  simp only [ruleRanges, ruleFields, inRange_eq]
  congr 6
  simp [inRange]

theorem settingsRanges_eq (p : List Byte) : settingsRanges p = settingsFields p := by
  simp only [settingsRanges, settingsFields, inRange_eq]

theorem param_cons_one (c : Byte) (ps : List Byte) (o : Nat) : param (c :: ps) (o + 1) 1 = (ps.getD o 0).toNat := by
  rw [param_one]; rfl


theorem firstBad_single {o lo hi : Nat} {v : Nat} : firstBad [(o, inRange lo hi v)] = if lo ≤ v ∧ v ≤ hi then none else some o := by
  by_cases h : lo ≤ v ∧ v ≤ hi
  · rw [if_pos h]; simp [firstBad, inRange, h]
  · rw [if_neg h]; simpa [firstBad, inRange] using h

/-! ## STATUS QUERY -/

theorem statusReport_endReceiving (s : State) : statusReport (endReceiving s) = statusReport s := rfl

theorem statusReport_length (s : State) : (statusReport s).length = 56 := by simp [statusReport, toBE_length]

/-- Settles O43: the option's range, the report, and the clear that follows a made ANSWER. -/
theorem statusQueryReports : Obligations.StatusQueryReports := by
  have acts {s : State} {d : Directive} {v : Byte} {room : Nat} (h : Addressed d 0x01 room s) (carried : d.params = [v]) :
      exec (.statusQuery d) s = .next (actStatusQuery (0x01 :: d.params) d.tag (endReceiving s)) :=
    congrArg _ (directiveArrives_addressed h (by rw [carried]; rfl) _)
  refine ⟨fun s d v carried => ⟨fun h large => ?_, fun h full => ?_⟩, ?_⟩
  · have bad : firstBad [(1, inRange 0 1 (param (0x01 :: d.params) 1 1))] = some 1 := by
      rw [firstBad_single, if_neg (by rw [carried, param_cons_one]; simpa using large)]
    rw [acts h carried, actStatusQuery, checkRange_bad bad, answer_queued h]
  · have lost (status : Status) (fields : List Byte) : answer (0x01 :: d.params) d.tag status fields (endReceiving s) =
        { s with ilu := { s.ilu with recordOpen := false }, dru := { s.dru with lost := satInc s.dru.lost } } := by
      rw [answer_eq _ _ _ _ _ (by exact not_bypass_of_operating h.operating), noticed_full _ (by exact full.ge)]
      rfl
    rw [acts h carried, actStatusQuery, checkRange]
    have unmade : decide ((endReceiving s).dru.notices.length < Config.noticeCapacity) = false := by
      simp [full, Config.noticeCapacity]
    split
    · rw [lost]
    · simp only [unmade, lost, and_false, Bool.false_eq_true, if_false]
  · intro s d v h carried small ns
    have ok : firstBad [(1, inRange 0 1 (param (0x01 :: d.params) 1 1))] = none := by
      rw [firstBad_single, if_pos (by rw [carried, param_cons_one]; simpa using small)]
    have made : decide ((endReceiving s).dru.notices.length < Config.noticeCapacity) = true :=
      decide_eq_true (show s.dru.notices.length < 16 from addressed_room h)
    have option : param (0x01 :: d.params) 1 1 = v.toNat := by rw [carried, param_cons_one]; rfl
    rw [acts h carried, actStatusQuery, checkRange_ok ok]
    simp only [answer_queued h, made, option, statusReport_endReceiving, and_true]
    refine ⟨statusReport_length s, fun keep => ?_, fun clear => ?_, fun clean => ?_⟩
    · rw [if_neg (by simp [keep])]
    · rw [if_pos (by simp [clear])]; rfl
    · simp only [statusReport, h.operating, clean, List.flatMap_cons, List.flatMap_nil, List.append_assoc]
      cases s.dru.quiesce <;> cases s.ilu.monitor.state <;> cases s.fmc.pacing <;> rfl

/-! ## Profiles and tables -/

/-- Settles O44: the ranges in the statement's order, and the entry set or read. -/
theorem profileDirectives : Obligations.ProfileDirectives := by
  intro s d
  refine ⟨?_, ?_, ?_⟩
  · intro h len p
    have acts : exec (.writeProfile d) s = .next (actWriteProfile p d.tag (endReceiving s)) :=
      congrArg _ (directiveArrives_addressed h (by rw [len]; rfl) _)
    rw [acts, actWriteProfile, profileRanges_eq, endReceiving_dru]
    refine ⟨fun ok => ⟨?_, ?_⟩, fun o bad => ?_⟩
    · have first := (firstBad_none_iff _).mp ok (within p 1 1 0 31) (by simp [profileFields])
      rw [within_snd] at first
      omega
    · rw [checkRange_ok ok, answer_made h (by rfl) (by rfl)]
      rfl
    · rw [checkRange_bad bad, answer_queued h]
  · intro n h carried
    have acts : exec (.readProfile d none) s = .next (actReadProfile none (0x03 :: d.params) d.tag (endReceiving s)) :=
      congrArg _ (directiveArrives_addressed h (by rw [carried]; rfl) _)
    have number : param (0x03 :: d.params) 1 1 = n.val := by rw [carried, param_cons_one]; exact byteOf_val_toNat n
    have ok : firstBad [(1, inRange 0 31 (param (0x03 :: d.params) 1 1))] = none := by
      rw [firstBad_single, if_pos (by rw [number]; omega)]
    rw [acts, actReadProfile, checkRange_ok ok, if_neg (by simp)]
    simp only [answer_queued h, number, Fin.ofNat_val_eq_self]
    rfl
  · intro v h carried large
    have acts : exec (.readProfile d none) s = .next (actReadProfile none (0x03 :: d.params) d.tag (endReceiving s)) :=
      congrArg _ (directiveArrives_addressed h (by rw [carried]; rfl) _)
    have bad : firstBad [(1, inRange 0 31 (param (0x03 :: d.params) 1 1))] = some 1 := by
      rw [firstBad_single, if_neg (by rw [carried, param_cons_one]; simpa using large)]
    rw [acts, actReadProfile, checkRange_bad bad, answer_queued h]

theorem checkQuiescedLoad_ok {s : State} (quiesced : s.dru.quiesce = .quiesced) (p : List Byte) (tag : Tag)
    (act : State → State) : checkQuiescedLoad p tag act s = act s := if_pos quiesced

theorem checkQuiescedLoad_refused {s : State} (h : s.dru.quiesce ≠ .quiesced) (p : List Byte) (tag : Tag)
    (act : State → State) : checkQuiescedLoad p tag act s = answer p tag .notQuiesced [] s := if_neg h

/-- Settles O45: QUIESCED, then the ranges, then the sum check, then the slot. -/
theorem tableLoads : Obligations.TableLoads := by
  intro s d
  refine ⟨?_, ?_, ?_⟩
  · intro h len p
    have acts : exec (.loadCodeTable d) s = .next (actLoadCodeTable p d.tag (endReceiving s)) :=
      congrArg _ (directiveArrives_addressed h (by rw [len]; rfl) _)
    rw [acts, actLoadCodeTable, codeTableRanges_eq]
    refine ⟨fun quiesced o bad => ?_, fun quiesced ok => ?_, fun not => ?_⟩
    · rw [checkQuiescedLoad_ok (by exact quiesced), checkRange_bad bad, answer_queued h]
    · rw [checkQuiescedLoad_ok (by exact quiesced), checkRange_ok ok]
      by_cases sums : sumCheck (codeEntriesOf p) = true
      · simp only [if_pos sums]
        rw [answer_made h (by rfl) (by rfl)]
        rfl
      · simp only [if_neg sums]
        rw [answer_queued h]
    · rw [checkQuiescedLoad_refused (by exact not), answer_queued h]
  · intro slot curve h carried len
    have acts : exec (.loadToneCurve d) s = .next (actLoadToneCurve (0x05 :: d.params) d.tag (endReceiving s)) :=
      congrArg _ (directiveArrives_addressed h (by rw [carried, List.length_cons, len]; rfl) _)
    have number : param (0x05 :: d.params) 1 1 = slot.toNat := by rw [carried, param_cons_one]; rfl
    have whole : (0x05 :: d.params).drop 2 = curve := by rw [carried]; rfl
    rw [acts, actLoadToneCurve]
    refine ⟨fun quiesced out => ?_, fun quiesced low high => ?_, fun not => ?_⟩
    · have bad : firstBad [(1, inRange 1 7 (param (0x05 :: d.params) 1 1))] = some 1 := by
        rw [firstBad_single, if_neg (by rw [number]; omega)]
      rw [checkQuiescedLoad_ok (by exact quiesced), checkRange_bad bad, answer_queued h]
    · have ok : firstBad [(1, inRange 1 7 (param (0x05 :: d.params) 1 1))] = none := by
        rw [firstBad_single, if_pos (by rw [number]; omega)]
      rw [checkQuiescedLoad_ok (by exact quiesced), checkRange_ok ok, answer_made h (by rfl) (by rfl)]
      simp only [number, whole]
      rfl
    · rw [checkQuiescedLoad_refused (by exact not), answer_queued h]
  · intro h len p
    have acts : exec (.loadRule d) s = .next (actLoadRule p d.tag (endReceiving s)) :=
      congrArg _ (directiveArrives_addressed h (by rw [len]; rfl) _)
    rw [acts, actLoadRule, ruleRanges_eq]
    refine ⟨fun quiesced o bad => ?_, fun quiesced ok => ?_, fun not => ?_⟩
    · rw [checkQuiescedLoad_ok (by exact quiesced), checkRange_bad bad, answer_queued h]
    · rw [checkQuiescedLoad_ok (by exact quiesced), checkRange_ok ok,
        answer_made h (by rfl) (by rfl)]
      rfl
    · rw [checkQuiescedLoad_refused (by exact not), answer_queued h]

/-! ## Roles, fences, quiesce, pacing -/

theorem roleOf_roleByte (role : Role) : roleOf (roleByte role).toNat = role := by cases role <;> rfl

theorem setStreamRole_ranges {ps : List Byte} {st : Stream} {role : Role} (carried : ps = [byteOf st.val, roleByte role]) :
    firstBad [(1, inRange 0 15 (param (0x07 :: ps) 1 1)), (2, inRange 0 1 (param (0x07 :: ps) 2 1))] = none := by
  have number : param (0x07 :: ps) 1 1 = st.val := by rw [carried, param_cons_one]; exact byteOf_val_toNat st
  have small : param (0x07 :: ps) 2 1 ≤ 1 := by
    rw [carried, param_cons_one]
    cases role <;> simp [roleByte]
  rw [number, firstBad_cons_ok _ (by simp [inRange]; omega), firstBad_single, if_pos ⟨Nat.zero_le _, small⟩]

theorem passableFences_held {q : List QueueEntry} {ix : ItemIx} (tag : Tag) (first : q.head? = some (.item ix false)) :
    passableFences (q ++ [.fence tag]) = (q ++ [.fence tag], []) := by
  cases q with
  | nil => simp at first
  | cons e rest =>
    obtain rfl : e = .item ix false := by simpa using first
    rfl

theorem passableFences_free {q : List QueueEntry} (tag : Tag) (spent : ∀ e ∈ q, ∃ ix, e = .item ix true) :
    passableFences (q ++ [.fence tag]) = (q, [tag]) := by
  induction q with
  | nil => rfl
  | cons e rest ih =>
    obtain ⟨ix, rfl⟩ := spent e (by simp)
    simp only [List.cons_append, passableFences, ih (fun e he => spent e (by simp [he]))]

/-- A FENCE that is not BUSY joins its queue; the markers with nothing unreleased ahead pass; the Release Engine chooses (R150). -/
theorem actFence_joins {s : State} {ps : List Byte} {st : Stream} (tag : Tag) (operating : s.flm.part = .operating)
    (number : param (0x0C :: ps) 1 1 = st.val) (room : fenceCount s.rel.queues[st] < 2) :
    actFence (0x0C :: ps) tag (endReceiving s) = relTry none { s with
      ilu := { s.ilu with recordOpen := false }
      rel := { s.rel with queues := s.rel.queues.set st (passableFences (s.rel.queues[st] ++ [.fence tag])).1 }
      dru := noticedAll (answered 0x0C tag .accepted [] ::
        (passableFences (s.rel.queues[st] ++ [.fence tag])).2.map
          (fun t => eventNotice .fencePassed .done t [byteOf st.val])) s.dru } := by
  have ok : firstBad [(1, inRange 0 15 (param (0x0C :: ps) 1 1))] = none := by
    rw [firstBad_single, if_pos (by rw [number]; omega)]
  rw [actFence, checkRange_ok ok]
  simp only [number, Fin.ofNat_val_eq_self]
  rw [if_neg (show ¬ Config.fenceCapacity ≤ fenceCount (endReceiving s).rel.queues[st] from Nat.not_le.mpr room),
    answer_eq _ _ _ _ _ (by exact not_bypass_of_operating operating), passFences,
    pushNotices_eq _ (by exact not_bypass_of_operating operating)]
  simp
  rfl

/-- Settles O46: the ranges, the role at once or pending, the marker that joins and passes. -/
theorem roleAndFenceDirectives : Obligations.RoleAndFenceDirectives := by
  have fences {s : State} {d : Directive} {v : Byte} {room : Nat} (h : Addressed d 0x0C room s) (carried : d.params = [v]) :
      exec (.fence d) s = .next (actFence (0x0C :: d.params) d.tag (endReceiving s)) :=
    congrArg _ (directiveArrives_addressed h (by rw [carried]; rfl) _)
  have roles {s : State} {d : Directive} {v w : Byte} {room : Nat} (h : Addressed d 0x07 room s) (carried : d.params = [v, w]) :
      exec (.setStreamRole { d with parity := none }) s =
        .next (actSetStreamRole none (0x07 :: d.params) d.tag (endReceiving s)) :=
    congrArg _ (directiveArrives_addressed h (by rw [carried]; rfl) _)
  have stream {code : Byte} {ps : List Byte} (st : Stream) : param (code :: byteOf st.val :: ps) 1 1 = st.val := by
    rw [param_cons_one]
    exact byteOf_val_toNat st
  refine ⟨fun s d v => ⟨fun h carried large => ?_, fun role h carried bad => ?_⟩, fun s d st => ⟨?_, ?_, ?_⟩⟩
  · have bad : firstBad [(1, inRange 0 15 (param (0x0C :: d.params) 1 1))] = some 1 := by
      rw [firstBad_single, if_neg (by rw [carried, param_cons_one]; simpa using large)]
    rw [fences h carried, actFence, checkRange_bad bad, answer_queued h]
  · have first : firstBad [(1, inRange 0 15 (param (0x07 :: d.params) 1 1)), (2, inRange 0 1 (param (0x07 :: d.params) 2 1))] =
        some (if 15 < v.toNat then 1 else 2) := by
      rw [carried, param_cons_one, param_cons_one]
      by_cases large : 15 < v.toNat
      · rw [if_pos large, firstBad_cons_bad _ (by simpa [inRange] using large)]
      · rw [if_neg large, firstBad_cons_ok _ (by simpa [inRange] using large), firstBad_single,
          if_neg (by simpa using bad.resolve_left large)]
    rw [roles h carried, actSetStreamRole, checkRange_bad first, answer_queued h]
  · intro role h carried
    have number : param (0x07 :: d.params) 1 1 = st.val := by rw [carried]; exact stream st
    have value : roleOf (param (0x07 :: d.params) 2 1) = role := by
      rw [carried, param_cons_one]
      exact roleOf_roleByte role
    have ok := setStreamRole_ranges carried
    rw [roles h carried, actSetStreamRole, checkRange_ok ok, if_neg (by simp)]
    simp only [number, value, Fin.ofNat_val_eq_self]
    refine ⟨fun shut => ?_, fun busy => ?_⟩
    · have applied : pushNotice (eventNotice .roleApplied .done d.tag [byteOf st.val, roleByte role])
          (answer (0x07 :: d.params) d.tag .done [] { endReceiving s with
            stk := { (endReceiving s).stk with map := s.stk.map.set st { role := role, pending := none } } }) =
          { s with
            ilu := { s.ilu with recordOpen := false }
            stk := { s.stk with map := s.stk.map.set st { role := role, pending := none } }
            dru := { s.dru with
              notices := s.dru.notices ++
                [answered 0x07 d.tag .done [],
                 { kind := .roleApplied, status := .done, subject := 0, tag := d.tag,
                   fields := [byteOf st.val, roleByte role] }] } } := by
        have space := h.space
        rw [answer_made h (by rfl) (by rfl), pushNotice_eq (by exact not_bypass_of_operating h.operating),
          noticed_room _ (by simp; omega)]
        simp only [List.append_assoc]
        rfl
      rcases shut with state | state <;> simp only [endReceiving_stk, state] <;> exact congrArg _ applied
    · have stored : answer (0x07 :: d.params) d.tag .accepted [] { endReceiving s with
            stk := { (endReceiving s).stk with
              map := s.stk.map.set st { role := (s.stk.map[st]).role, pending := some (role, d.tag) } } } =
          { s with
            ilu := { s.ilu with recordOpen := false }
            stk := { s.stk with map := s.stk.map.set st { s.stk.map[st] with pending := some (role, d.tag) } }
            dru := { s.dru with notices := s.dru.notices ++ [answered 0x07 d.tag .accepted []] } } := by
        rw [answer_made h (by rfl) (by rfl)]
        rfl
      rcases busy with state | state <;> simp only [endReceiving_stk, state] <;> exact congrArg _ stored
  · intro h carried room after passed
    rw [fences h carried, actFence_joins _ h.operating (by rw [carried]; exact stream st) room, passableFences_eq_fencesPassed]
    rfl
  · intro h carried q
    have joins (room : fenceCount q < 2) := actFence_joins (ps := d.params) d.tag h.operating (by rw [carried]; exact stream st) room
    refine ⟨fun full => ?_, fun room unreleased => ?_, fun spent => ?_⟩
    · have number : param (0x0C :: d.params) 1 1 = st.val := by rw [carried]; exact stream st
      have ok : firstBad [(1, inRange 0 15 (param (0x0C :: d.params) 1 1))] = none := by
        rw [firstBad_single, if_pos (by rw [number]; omega)]
      rw [fences h carried, actFence, checkRange_ok ok]
      simp only [number, Fin.ofNat_val_eq_self]
      rw [if_pos (by exact full), answer_queued h]
    · obtain ⟨ix, first⟩ := unreleased
      rw [fences h carried, joins room, passableFences_held _ first, List.map_nil, noticedAll_room _ (by
        have := h.space
        simp; omega)]
    · have none : fenceCount q = 0 := by
        rw [fenceCount, List.length_eq_zero_iff, List.filter_eq_nil_iff]
        intro e he
        obtain ⟨ix, rfl⟩ := spent e he
        simp
      rw [fences h carried, joins (by omega), passableFences_free _ spent, noticedAll_room _ (by simpa using h.space)]
      have kept : s.rel.queues.set st q = s.rel.queues := Vector.set_getElem_self _
      rw [kept]
      rfl

theorem freeItems_eq_iff (k : Stk) : freeItems k = 32 ↔ ∀ ix : ItemIx, k.items[ix] = none := by
  rw [freeItems, Vector.count_eq_size]
  constructor
  · exact fun all ix => (all _ (Vector.getElem_mem ix.isLt)).symm
  · intro all b mem
    obtain ⟨i, hi, rfl⟩ := Vector.getElem_of_mem mem
    exact (all ⟨i, hi⟩).symm

/-- Settles O47: the three cases of QUIESCE, and the grants that RESUME withdraws. -/
theorem quiesceAndResume : Obligations.QuiesceAndResume := by
  intro s d none grant empty
  refine ⟨fun h => ?_, fun h => ?_⟩
  · have space := h.space
    have notBypass := not_bypass_of_operating h.operating
    have acts : exec (.quiesce d) s = .next (actQuiesce (0x08 :: d.params) d.tag (endReceiving s)) :=
      congrArg _ (directiveArrives_addressed h (by rw [none]; rfl) _)
    have table : freeItems (endReceiving s).stk = 32 ↔ empty := freeItems_eq_iff s.stk
    rw [acts, actQuiesce]
    simp only [answer_queued h, table, endReceiving_dru]
    refine ⟨fun granted => ?_, fun owes => ?_, fun quiescing full => by rw [if_pos (And.intro quiescing (show Config.owedCapacity ≤ _ from full))]⟩
    · have notOwing : s.dru.quiesce ≠ .quiescing := by rcases granted with q | ⟨q, -⟩ <;> simp [q]
      rw [if_neg (fun both => notOwing both.1)]
      by_cases free : empty
      · rw [if_pos ⟨free, notOwing⟩, pushNotices_eq _ (by exact notBypass), noticedAll_room _ (by simp [grantNotices, queued]; omega)]
        simp only [queued, List.append_assoc]
        rfl
      · have quiesced := granted.resolve_right fun both => free both.2
        rw [if_neg (fun both => free both.1), if_pos quiesced, pushNotices_eq _ (by exact notBypass),
          noticedAll_room _ (by simp [grantNotices, queued]; omega), ← quiesced]
        simp only [queued, List.append_assoc]
        rfl
    · have few : ¬ (s.dru.quiesce = .quiescing ∧ Config.owedCapacity ≤ s.dru.owed.length) := by
        rcases owes with ⟨running, -⟩ | ⟨-, few⟩
        · simp [running]
        · exact fun full => absurd full.2 (Nat.not_le.mpr few)
      have waits : ¬ (empty ∧ s.dru.quiesce ≠ .quiescing) := by
        rcases owes with ⟨-, busy⟩ | ⟨quiescing, -⟩
        · exact fun both => busy both.1
        · simp [quiescing]
      have started : s.dru.quiesce ≠ .quiesced := by rcases owes with ⟨q, -⟩ | ⟨q, -⟩ <;> simp [q]
      rw [if_neg few, if_neg waits, if_neg started]
      rfl
  · have acts : exec (.resume d) s = .next (actResume (0x09 :: d.params) d.tag (endReceiving s)) :=
      congrArg _ (directiveArrives_addressed h (by rw [none]; rfl) _)
    have space := h.space
    rw [acts, actResume, answer_made h (by rfl) (by rfl) _ _ (by omega), pushNotices_eq _ (by exact not_bypass_of_operating h.operating),
      noticedAll_room _ (by simp [grantNotices]; omega)]
    rfl

/-- The pacing flag after an evaluation in OPERATING (R62). -/
theorem evalPacing_eq {s : State} (operating : s.flm.part = .operating) :
    evalPacing s = { s with fmc := { s.fmc with
      pacing := if s.fmc.slots.count .free ≤ s.fmc.mark then true
        else if s.fmc.mark + 4 ≤ s.fmc.slots.count .free then false else s.fmc.pacing } } := by
  have flag : (if s.fmc.pacing then decide (freeSlots s.fmc < s.fmc.mark + 4) else decide (freeSlots s.fmc ≤ s.fmc.mark)) =
      if s.fmc.slots.count .free ≤ s.fmc.mark then true
        else if s.fmc.mark + 4 ≤ s.fmc.slots.count .free then false else s.fmc.pacing := by
    unfold freeSlots
    cases s.fmc.pacing <;> simp; grind
  rw [evalPacing, if_pos operating, flag]

/-- Settles O49: the ranges, the hysteresis of the flag, and the mark-error request. -/
theorem pacingAndMarkDirectives : Obligations.PacingAndMarkDirectives := by
  have acts {s : State} {d : Directive} {v w : Byte} {room : Nat} (h : Addressed d 0x0B room s) (carried : d.params = [v, w]) :
      exec (.setPacing d) s = .next (actSetPacing (0x0B :: d.params) d.tag (endReceiving s)) :=
    congrArg _ (directiveArrives_addressed h (by rw [carried]; rfl) _)
  intro s d
  refine ⟨?_, ?_, fun h none => ?_⟩
  · intro duty mark h carried hd low high free
    have first : param (0x0B :: d.params) 1 1 = duty := by rw [carried, param_cons_one]; exact toNat_byteOf (by omega)
    have second : param (0x0B :: d.params) 2 1 = mark := by rw [carried, param_cons_one]; exact toNat_byteOf (by omega)
    have ok : firstBad [(1, inRange 0 7 (param (0x0B :: d.params) 1 1)), (2, inRange 4 24 (param (0x0B :: d.params) 2 1))] =
        none := by
      rw [first, second, firstBad_cons_ok _ (by simp [inRange, hd]), firstBad_single, if_pos ⟨low, high⟩]
    rw [acts h carried, actSetPacing, checkRange_ok ok, first, second, evalPacing_eq (by exact h.operating),
      answer_made h (by rfl) (by rfl)]
    rfl
  · intro duty mark h carried
    have first : param (0x0B :: d.params) 1 1 = duty.toNat := by rw [carried, param_cons_one]; rfl
    have second : param (0x0B :: d.params) 2 1 = mark.toNat := by rw [carried, param_cons_one]; rfl
    rw [acts h carried, actSetPacing]
    refine ⟨fun large => ?_, fun small out => ?_⟩
    · rw [first, checkRange_bad (firstBad_cons_bad _ (by simpa [inRange] using large)), answer_queued h]
    · have bad : firstBad [(1, inRange 0 7 (param (0x0B :: d.params) 1 1)), (2, inRange 4 24 (param (0x0B :: d.params) 2 1))] =
          some 2 := by
        rw [first, second, firstBad_cons_ok _ (by simp [inRange, small]), firstBad_single, if_neg (by omega)]
      rw [checkRange_bad bad, answer_queued h]
  · have marked : exec (.markLinkError d) s = .next (actMarkLinkError (0x0D :: d.params) d.tag (endReceiving s)) :=
      congrArg _ (directiveArrives_addressed h (by rw [none]; rfl) _)
    rw [marked, actMarkLinkError, answer_made h (by rfl) (by rfl)]
    rfl

/-! ## The Start-up Store -/

/-- A valid store's cells are its settings as sent (R193, R200). -/
theorem settingsBytes_readStore {cells : Vector Byte 6} {c : Settings} (valid : readStore cells = some c) :
    settingsBytes c = [cells[0], cells[1], cells[2], cells[3], cells[4]] := by
  unfold readStore at valid
  simp only at valid
  split at valid
  case isFalse => simp at valid
  case isTrue h =>
    obtain rfl := Option.some.inj valid
    have mask : beNat [cells[1], cells[2]] < 2 ^ 16 := (beNat_lt _).trans_le (by simp)
    have flag : byteOfBool (decide (cells[4].toNat = 1)) = cells[4] := by
      rw [byteOfBool_eq_byteOf h.2.2.2.2.2, byteOf_toNat]
    have back : toBE 2 (beNat [cells[1], cells[2]]) = [cells[1], cells[2]] := toBE_beNat [cells[1], cells[2]]
    simp only [settingsBytes, byteOf_toNat, flag, BitVec.toNat_ofNat, Nat.mod_eq_of_lt mask, back]
    rfl

/-- Settles O50: range before BUSY, the three moves of a store write, and the report. -/
theorem storeWriteCommands : Obligations.StoreWriteCommands := by
  intro s d c tag
  refine ⟨?_, fun erasing => ?_, fun programming station low high => ?_, ?_⟩
  · intro h len p
    have acts : exec (.writeStartUp d) s = .next (actWriteStartUp p d.tag (endReceiving s)) :=
      congrArg _ (directiveArrives_addressed h (by rw [len]; rfl) _)
    rw [acts, actWriteStartUp, settingsRanges_eq]
    refine ⟨fun o bad => ?_, fun ok idle => ?_, fun ok busy => ?_⟩
    · rw [checkRange_bad bad, answer_queued h]
    · rw [checkRange_ok ok, if_neg (not_not.mpr (by exact idle)), answer_made h (by rfl) (by rfl)]
      rfl
    · rw [checkRange_ok ok, if_pos (by exact busy), answer_queued h]
  · simp only [exec, execEraseComplete, erasing]
  · refine ⟨programmedCells c, programmedStoreReadsBack c station low high, ?_⟩
    simp only [exec, execStoreWriteComplete, programming]
    by_cases bypass : s.flm.part = .bypass
    · rw [pushNotice_bypass (by exact bypass), if_pos bypass]
    · rw [pushNotice_eq (by exact bypass), if_neg bypass]
      rfl
  · intro h none stored
    have acts : exec (.readStartUp d) s = .next (actReadStartUp (0x0F :: d.params) d.tag (endReceiving s)) :=
      congrArg _ (directiveArrives_addressed h (by rw [none]; rfl) _)
    rw [acts, actReadStartUp]
    refine ⟨fun idle => ?_, fun busy => ?_⟩
    · have report : startUpReport s.sus = stored ++ settingsBytes s.sus.working := by
        unfold startUpReport
        cases valid : readStore s.sus.cells with
        | none => simp only [stored, valid]; rfl
        | some c => simp only [stored, valid, Option.getD_some, settingsBytes_readStore valid]; rfl
      rw [if_neg (not_not.mpr (by exact idle)), endReceiving_sus, report, answer_queued h]
    · rw [if_pos (by exact busy), answer_queued h]

end Sys2Proof.Proofs
end

section
/-! Directives refused and passed, RESTART, and parity errors. -/

namespace Sys2Proof.Proofs
open Sys2Proof.Machine Sys2Proof.Safety Sys2Proof.Laws

/-! ## The checks before a directive's own -/

theorem answer_endReceiving {p : List Byte} {s : State} (tag : Tag) (status : Status) (fields : List Byte)
    (notBypass : s.flm.part ≠ .bypass) (room : s.dru.notices.length < 16) :
    answer p tag status fields (endReceiving s) = queued [answered (p.headD 0) tag status fields] s := by
  rw [answer, pushNotice_eq (by exact notBypass), noticed_room _ (by exact room)]
  rfl

theorem takeDirective_badCheck {rec : Carried} {act : List Byte → Tag → State → State} {s : State}
    (check : checkOk rec = false) : takeDirective rec act s = answer rec.payload rec.tag .badCheck [] s := by
  simp only [takeDirective, check]
  exact if_pos rfl

theorem takeDirective_starting {rec : Carried} {act : List Byte → Tag → State → State} {s : State}
    (check : checkOk rec = true) (part : s.flm.part = .starting) :
    takeDirective rec act s = answer rec.payload rec.tag .starting [] s := by
  simp only [takeDirective, check, part]
  rfl

theorem takeDirective_unknown {rec : Carried} {act : List Byte → Tag → State → State} {s : State}
    (check : checkOk rec = true) (part : s.flm.part = .operating)
    (code : directiveLength (rec.payload.headD 0).toNat = none) :
    takeDirective rec act s = answer rec.payload rec.tag .unknown [] s := by
  simp only [takeDirective, check, part, code]
  rfl

theorem takeDirective_badLength {rec : Carried} {act : List Byte → Tag → State → State} {s : State} {n : Nat}
    (check : checkOk rec = true) (part : s.flm.part = .operating)
    (code : directiveLength (rec.payload.headD 0).toNat = some n) (len : rec.payload.length ≠ n) :
    takeDirective rec act s = answer rec.payload rec.tag .badLength (toBE 2 rec.payload.length) s := by
  simp only [takeDirective, check, part, code]
  rw [if_neg (by decide), if_neg (by decide), if_pos len]

/-- A directive that arrives outside reset goes to its destination. -/
theorem directiveArrives_sound {st : Fin 32} {rec : Carried} {act : List Byte → Tag → State → State} {s : State}
    (short : rec.payload.length ≤ 16384) (receiving : s.ilu.recordOpen = true) (held : s.flm.part ≠ .held) :
    directiveArrives st rec act s = directiveDestination st rec act (endReceiving s) := by
  rw [directiveArrives_eq, recordArrives_sound _ _ _ receiving held]
  exact headerFaulty_directive (by rw [byteOf_val_toNat]; omega) short

theorem takeDirective_keepsLink {rec : Carried} {act : List Byte → Tag → State → State}
    (keeps : ∀ p tag, KeepsLink (act p tag)) : KeepsLink (takeDirective rec act) := by
  intro s sending
  unfold takeDirective
  simp only
  split
  · simp
  · split
    · simp
    · split
      · simp
      · split
        · simp
        · exact keeps _ _ s sending

/-- Settles O42: `takeDirective` check by check; a broadcast is the directive's effect and then an offer. -/
theorem directiveChecksInOrder : Obligations.DirectiveChecksInOrder := by
  refine ⟨?_, ?_⟩
  · intro s c r carries kind station receiving assigned short room code refuse
    obtain ⟨st, act, record, number, runs, -, -⟩ := exec_directive carries kind (by omega) short
    have here : st.val = s.sus.working.station := number.trans station
    have notAll : st.val ≠ Config.broadcast := fun e => by rw [Config.broadcast] at e; omega
    rw [runs]
    refine ⟨fun part => ?_, fun part => ?_⟩
    · have taken : directiveArrives st r.body act s = takeDirective r.body act (endReceiving s) := by
        rw [directiveArrives_sound short receiving (by simp [part]), directiveDestination, if_neg (by simp [part]),
          if_neg notAll, if_pos (by exact here), if_neg (by simp [part])]
      have answers (status : Status) (fields : List Byte) :
          answer r.body.payload r.body.tag status fields (endReceiving s) = queued [refuse status fields] s :=
        answer_endReceiving _ _ _ (by simp [part]) room
      rw [taken]
      refine ⟨fun bad => ?_, fun ok unknown => ?_, fun ok n known len => ?_⟩
      · rw [takeDirective_badCheck bad, answers]
      · rw [takeDirective_unknown ok (by exact part) unknown, answers]
      · rw [takeDirective_badLength ok (by exact part) known len, answers]
    · have answers (status : Status) (fields : List Byte) :
          answer r.body.payload r.body.tag status fields (endReceiving s) = queued [refuse status fields] s :=
        answer_endReceiving _ _ _ (by simp [part]) room
      have taken : takeDirective r.body act (endReceiving s) =
          queued [refuse (if checkOk r.body then .starting else .badCheck) []] s := by
        cases check : checkOk r.body
        · rw [takeDirective_badCheck check, answers]; rfl
        · rw [takeDirective_starting check (by exact part), answers]; rfl
      have passed : directiveArrives st r.body act s =
          offerPass r (queued [refuse (if checkOk r.body then .starting else .badCheck) []] s) := by
        rw [directiveArrives_sound short receiving (by simp [part]), directiveDestination, if_neg (by simp [part]),
          if_neg notAll, if_pos (by exact here), if_pos (by exact part), taken, ← record]
      refine ⟨_, congrArg _ passed, ?_⟩
      by_cases space : s.elu.fifo.length < 64
      · rw [offerPass_room r (by exact space), wakeLink_asleep (.inl (by simp [joined, queued, part]))]
        exact ⟨rfl, rfl, rfl, rfl, rfl, fun _ canonical => ⟨rfl, wrote_write canonical _ _⟩⟩
      · rw [offerPass_full r (by exact Nat.not_lt.mp space)]
        exact ⟨rfl, rfl, rfl, rfl, rfl, fun less => absurd less space⟩
  · intro s c r own carries kind all station assigned short receiving part link
    obtain ⟨st, act, record, number, runs, redirected, keeps⟩ := exec_directive carries kind (by omega) short
    have notAll : own.val ≠ Config.broadcast := fun e => by rw [Config.broadcast] at e; omega
    have here : directiveArrives own r.body act s = takeDirective r.body act (endReceiving s) := by
      rw [directiveArrives_sound short receiving (by simp [part]), directiveDestination, if_neg (by simp [part]),
        if_neg notAll, if_pos (by exact station), if_neg (by simp [part])]
    have everywhere : directiveArrives st r.body act s = offerPass r (takeDirective r.body act (endReceiving s)) := by
      rw [directiveArrives_sound short receiving (by simp [part]), directiveDestination, if_neg (by simp [part]),
        if_pos (by rw [number, all]; rfl), ← record]
    have sending : (takeDirective r.body act (endReceiving s)).elu.link ≠ .between := by
      rw [takeDirective_keepsLink keeps _ (by exact link)]
      exact link
    refine ⟨_, (redirected own s).trans (congrArg _ here), fun space canonical => ?_, fun full => ?_⟩
    · refine ⟨_, (runs s).trans (congrArg _ everywhere), ?_⟩
      rw [offerPass_room r (by exact space), wakeLink_asleep (.inr (.inl (by exact sending)))]
      exact ⟨wrote_write canonical _ _, rfl⟩
    · rw [runs, everywhere, offerPass_full r full]

/-! ## A fault latched -/

/-- What the first fatal fault leaves, the link not lying between records (R205, R206). -/
theorem latch_latched {cause : FaultCause} {s : State} (clear : s.flm.latch = none)
    (part : s.flm.part = .starting ∨ s.flm.part = .operating) (link : s.elu.link ≠ .between) :
    Latched cause s (latch cause s) := by
  have changed : (latch cause s).flm = { part := .bypass, latch := some cause } := by
    rw [latch, if_pos ⟨clear, part⟩, wakeLink_flm]
  rcases latch_cases cause s with same | ⟨-, -, t, made, flm, work, pending, sus, elu, freeUsed, fmc, notices, lost, profiles,
    codes, tones, rules, duty, position, orphans, accepted, lostItems, roles, ilu⟩
  · rw [same] at changed
    rw [changed] at clear
    simp at clear
  · rw [made, wakeLink_of_sending (elu ▸ link)]
    have slots : t.fmc.slots = (discardSlots s.fmc).slots := by rw [fmc]
    refine ⟨flm, work, ?_, roles, ⟨profiles, codes, tones, rules, duty, lost⟩, ⟨orphans, accepted, lostItems⟩, ilu, fun k => ?_,
      ?_, ⟨elu, sus, position, freeUsed, pending⟩⟩
    · rw [notices]; cases cause <;> rfl
    · rw [slots]; simp [discardSlots]
    · rw [slots, fmc]; simp only [discardSlots, heldSlots]

/-- What a latch leaves depends on what it keeps alone. -/
theorem Latched_congr {cause : FaultCause} {s u t : State} (h : Latched cause u t)
    (map : ∀ st : Stream, (u.stk.map[st]).role = (s.stk.map[st]).role)
    (counts : u.stk.orphans = s.stk.orphans ∧ u.stk.accepted = s.stk.accepted ∧ u.stk.lost = s.stk.lost)
    (ilu : u.ilu = s.ilu) (fmc : u.fmc = s.fmc) (elu : u.elu = s.elu) (dru : u.dru = s.dru) (sus : u.sus = s.sus)
    (position : u.rel.position = s.rel.position) (freeUsed : u.freeUsed = s.freeUsed) (pending : u.pending = s.pending) :
    Latched cause s t := by
  obtain ⟨flm, work, notice, roles, tables, kept, ingress, slots, memory, others⟩ := h
  rw [dru] at tables
  rw [ilu] at ingress
  rw [fmc] at memory
  rw [elu, sus, position, freeUsed, pending] at others
  refine ⟨flm, work, notice, fun st => (roles st).trans (map st), tables, ?_, ingress, fmc ▸ slots, memory, others⟩
  exact ⟨kept.1.trans counts.1, kept.2.1.trans counts.2.1, kept.2.2.trans counts.2.2⟩

/-- A parity error in the read of the context, or of the open item's record, latches before anything else (R204). -/
theorem withOpenItem_badContext (st : Stream) (handle : ItemIx → State → State) (s : State) :
    withOpenItem st (some .context) handle s = latch .tableParity s := if_pos rfl

theorem withOpenItem_badRecord {st : Stream} {ix : ItemIx} {s : State} (handle : ItemIx → State → State)
    (h : hasOpenItem s st ix) : withOpenItem st (some .record) handle s = latch .tableParity s := by
  obtain ⟨state | state, item⟩ := h <;> simp [withOpenItem] <;> simp_all

/-- With an item open the timer restarts and the record is handled (R42). -/
theorem withOpenItem_handles {st : Stream} {ix : ItemIx} {s : State} {p : Option ParityRead} (handle : ItemIx → State → State)
    (h : hasOpenItem s st ix) (context : p ≠ some .context) (record : p ≠ some .record) :
    withOpenItem st p handle s = handle ix (restartTimer st ix s) := by
  obtain ⟨state | state, item⟩ := h <;> simp only [withOpenItem, if_neg context, if_neg record, state, item]

theorem itemOpenTaken_badContext (r : Record) (st : Stream) (seq : BitVec 32) (declared number : Nat) (s : State) :
    itemOpenTaken r st seq declared number (some .context) s = latch .tableParity s := if_pos rfl

theorem itemOpenTaken_badRecord (r : Record) {st : Stream} {ix : ItemIx} (seq : BitVec 32) (declared number : Nat) {s : State}
    (h : hasOpenItem s st ix) : itemOpenTaken r st seq declared number (some .record) s = latch .tableParity s := by
  obtain ⟨state | state, item⟩ := h <;> simp only [itemOpenTaken, state, item] <;> rfl

theorem lowestFreeItem_of_free {k : Stk} {ix : ItemIx} (free : k.items[ix] = none) : ∃ jx, lowestFreeItem k = some jx := by
  cases found : lowestFreeItem k with
  | some jx => exact ⟨jx, rfl⟩
  | none =>
    have all := List.find?_eq_none.mp found ix (List.mem_finRange ix)
    rw [free] at all
    simp at all

theorem itemOpenTaken_idle (r : Record) {st : Stream} (seq : BitVec 32) (declared number : Nat) {p : Option ParityRead}
    {s : State} (context : p ≠ some .context)
    (shut : (s.stk.contexts[st]).state = .idle ∨ (s.stk.contexts[st]).state = .discard) :
    itemOpenTaken r st seq declared number p s = openOrRefuse st seq declared number p s := by
  rcases shut with state | state <;> simp only [itemOpenTaken, if_neg context, state]

/-! ## RESTART -/

/-- A stream map entry once its pending role has been applied (R24). -/
def roleApplied (e : MapEntry) : MapEntry := { role := (e.pending.map Prod.fst).getD e.role, pending := none }

theorem applyPending_map (st : Stream) (s : State) :
    (applyPending st s).stk.map = s.stk.map.set st (roleApplied s.stk.map[st]) := by
  unfold applyPending
  cases pending : (s.stk.map[st]).pending with
  | none =>
    have same : roleApplied s.stk.map[st] = s.stk.map[st] := by rw [roleApplied, pending]; cases e : s.stk.map[st]; simp_all
    rw [same]
    exact (Vector.set_getElem_self _).symm
  | some held => simp only [pushNotice_stk, roleApplied, pending]; rfl

theorem applyPendings_map (sts : List Stream) (s : State) (st : Stream) :
    ((sts.foldl (fun s st => applyPending st s) s).stk.map)[st] =
      if st ∈ sts then roleApplied s.stk.map[st] else s.stk.map[st] := by
  induction sts generalizing s with
  | nil => rfl
  | cons x sts ih =>
    have applied : (applyPending x s).stk.map[st] = if x = st then roleApplied s.stk.map[st] else s.stk.map[st] := by
      rw [applyPending_map]
      by_cases same : x = st
      · subst same; rw [if_pos rfl]; exact Vector.getElem_set_self _
      · rw [if_neg same]; exact Vector.getElem_set_ne _ _ fun e => same (Fin.ext e)
    rw [List.foldl_cons, ih, applied]
    by_cases same : x = st
    · subst same; simp only [if_pos, List.mem_cons, true_or]; split <;> rfl
    · simp [same, Ne.symm same]

theorem applyPending_none {st : Stream} {s : State} (h : (s.stk.map[st]).pending = none) : applyPending st s = s := by
  simp only [applyPending, h]

/-- A pending role takes force, with its ROLE APPLIED notice (R24). -/
theorem applyPending_some {st : Stream} {s : State} {role : Role} {tag : Tag}
    (h : (s.stk.map[st]).pending = some (role, tag)) (notBypass : s.flm.part ≠ .bypass) :
    applyPending st s = { s with
      stk := { s.stk with map := s.stk.map.set st { role := role, pending := none } }
      dru := noticed { kind := .roleApplied, status := .done, subject := 0, tag := tag,
                       fields := [byteOf st.val, roleByte role] } s.dru } := by
  simp only [applyPending, h]
  exact pushNotice_eq notBypass

/-- The pending roles that take force change the map, and make notices (R24). -/
theorem applyPendings_frame (sts : List Stream) {s : State} (notBypass : s.flm.part ≠ .bypass) :
    ∃ map ns, sts.foldl (fun s st => applyPending st s) s =
        { s with stk := { s.stk with map := map }, dru := noticedAll ns s.dru } ∧
      ((∀ st : Stream, (s.stk.map[st]).pending = none) → ns = []) := by
  induction sts generalizing s with
  | nil => exact ⟨s.stk.map, [], rfl, fun _ => rfl⟩
  | cons st sts ih =>
    rw [List.foldl_cons]
    cases pending : (s.stk.map[st]).pending with
    | none => rw [applyPending_none pending]; exact ih notBypass
    | some held =>
      rw [applyPending_some pending notBypass]
      obtain ⟨map, ns, rest, -⟩ := ih (s := { s with
        stk := { s.stk with map := s.stk.map.set st { role := held.1, pending := none } }
        dru := noticed { kind := .roleApplied, status := .done, subject := 0, tag := held.2,
                         fields := [byteOf st.val, roleByte held.1] } s.dru }) notBypass
      exact ⟨map, _ :: ns, rest, fun none => absurd ((none st).symm.trans pending) (by simp)⟩

/-- Dropping the work frees no slot and takes none (R57). -/
theorem discardSlots_count_free (f : Fmc) : (discardSlots f).slots.count .free = f.slots.count .free := by
  have mapped : (discardSlots f).slots = f.slots.map (fun x => if isHeldSlot x then .scrubbing else x) := by
    ext i hi
    simp [discardSlots]
  have same (x : SlotState) : (decide ((if isHeldSlot x then SlotState.scrubbing else x) = .free)) = decide (x = .free) := by
    cases x <;> rfl
  rw [mapped, Vector.count_eq_countP, Vector.countP_map, Vector.count_eq_countP]
  congr 1
  funext x
  exact same x

theorem workDropped_noWork {s : State} (pending : ∀ st : Stream, (s.stk.map[st]).pending = none) : NoWork (workDropped s) := by
  constructor <;> intros <;> simp [workDropped, discardSlots]
  · exact pending _
  · split <;> simp_all [isHeldSlot]

/-- RESTART in its parts: the ANSWER, the pending roles, the work dropped, the flag evaluated, the grants withdrawn (R188). -/
theorem exec_restart {s : State} {d : Directive} (h : Addressed d 0x0A 1 s) (carried : d.params = []) :
    let counts : List Byte := [byteOf (32 - s.stk.items.count none), byteOf (fencesHeld s.rel), byteOf s.dru.owed.length]
    let applied := (List.finRange 16).foldl (fun s st => applyPending st s) (queued [answered 0x0A d.tag .done counts] s)
    exec (.restart d) s = .next (pushNotices (grantNotices .withdrawn s.dru.owed) (evalPacing (workDropped applied))) := by
  have acts : exec (.restart d) s = .next (actRestart (0x0A :: d.params) d.tag (endReceiving s)) :=
    congrArg _ (directiveArrives_addressed h (by rw [carried]; rfl) _)
  rw [acts, actRestart_eq, answer_queued h]
  rfl

@[simp] theorem workDropped_ilu (s : State) : (workDropped s).ilu = s.ilu := rfl
@[simp] theorem workDropped_flm (s : State) : (workDropped s).flm = s.flm := rfl
@[simp] theorem workDropped_elu (s : State) : (workDropped s).elu = s.elu := rfl
@[simp] theorem workDropped_sus (s : State) : (workDropped s).sus = s.sus := rfl
@[simp] theorem workDropped_fmc (s : State) :
    (workDropped s).fmc = { discardSlots s.fmc with mark := s.sus.working.mark } := rfl
@[simp] theorem workDropped_dru (s : State) :
    (workDropped s).dru = { s.dru with quiesce := .running, owed := [], duty := 0 } := rfl
@[simp] theorem workDropped_rel (s : State) :
    (workDropped s).rel = { s.rel with queues := Vector.replicate 16 [], release := none } := rfl
@[simp] theorem workDropped_stk (s : State) :
    (workDropped s).stk =
      { s.stk with contexts := Vector.replicate 16 StreamCtx.idle, items := Vector.replicate 32 none } := rfl

theorem evalPacing_fmc {s : State} (operating : s.flm.part = .operating) :
    (evalPacing s).fmc = { s.fmc with
      pacing := if s.fmc.slots.count .free ≤ s.fmc.mark then true
        else if s.fmc.mark + 4 ≤ s.fmc.slots.count .free then false else s.fmc.pacing } :=
  congrArg State.fmc (evalPacing_eq operating)

theorem noticedAll_quiesce (ns : List Notice) (d : Dru) : (noticedAll ns d).quiesce = d.quiesce := by
  rw [noticedAll_frame]

theorem noticedAll_owed (ns : List Notice) (d : Dru) : (noticedAll ns d).owed = d.owed := by
  rw [noticedAll_frame]

theorem discardSlots_pacing (f : Fmc) : (discardSlots f).pacing = f.pacing := by
  simp only [discardSlots]

theorem NoWork_congr {s t : State} (h : NoWork s) (stk : t.stk = s.stk) (scu : t.scu = s.scu) (cnv : t.cnv = s.cnv)
    (rel : t.rel = s.rel) (ready : t.fmc.ready = s.fmc.ready) (slots : t.fmc.slots = s.fmc.slots)
    (quiesce : t.dru.quiesce = s.dru.quiesce) (owed : t.dru.owed = s.dru.owed) : NoWork t := by
  obtain ⟨items, contexts, pendingRole, scaling, converting, release, queues, empty, notHeld, running, none⟩ := h
  constructor
  · intro i; rw [stk]; exact items i
  · intro i; rw [stk]; exact contexts i
  · intro i; rw [stk]; exact pendingRole i
  · intro i; rw [scu]; exact scaling i
  · rw [cnv]; exact converting
  · rw [rel]; exact release
  · intro i; rw [rel]; exact queues i
  · rw [ready]; exact empty
  · intro i; rw [slots]; exact notHeld i
  · rw [quiesce]; exact running
  · rw [owed]; exact none

/-- What RESTART leaves, `q` being the part after its ANSWER and the pending roles (R188, R189). -/
theorem restart_leaves (ns : List Notice) {q : State} (operating : q.flm.part = .operating)
    (pending : ∀ st : Stream, (q.stk.map[st]).pending = none) :
    let t := pushNotices ns (evalPacing (workDropped q))
    NoWork t ∧ t.dru = noticedAll ns { q.dru with quiesce := .running, owed := [], duty := 0 } ∧
      t.fmc = { discardSlots q.fmc with
        mark := q.sus.working.mark
        pacing := if q.fmc.slots.count .free ≤ q.sus.working.mark then true
          else if q.sus.working.mark + 4 ≤ q.fmc.slots.count .free then false else q.fmc.pacing } := by
  have dru : (pushNotices ns (evalPacing (workDropped q))).dru =
      noticedAll ns { q.dru with quiesce := .running, owed := [], duty := 0 } := by
    rw [pushNotices_eq _ (by simp [operating]), evalPacing_dru, workDropped_dru]
  have fmc : (pushNotices ns (evalPacing (workDropped q))).fmc = { discardSlots q.fmc with
        mark := q.sus.working.mark
        pacing := if q.fmc.slots.count .free ≤ q.sus.working.mark then true
          else if q.sus.working.mark + 4 ≤ q.fmc.slots.count .free then false else q.fmc.pacing } := by
    simp only [pushNotices_fmc, evalPacing_fmc (show (workDropped q).flm.part = .operating from operating), workDropped_fmc,
      discardSlots_count_free, discardSlots_pacing]
  refine ⟨NoWork_congr (workDropped_noWork pending) ?_ ?_ ?_ ?_ ?_ ?_ ?_ ?_, dru, fmc⟩
  · simp
  · simp
  · simp
  · simp
  · simp only [fmc, workDropped_fmc]
  · simp only [fmc, workDropped_fmc]
  · simp only [dru, noticedAll_quiesce, workDropped_dru]
  · simp only [dru, noticedAll_owed, workDropped_dru]

/-- What RESTART leaves, in the part's own terms: roles, notices and the fields kept (R188, R189). -/
theorem restart_drops_work {s : State} {d : Directive} (h : Addressed d 0x0A 1 s) (carried : d.params = []) :
    ∃ map ns t, exec (.restart d) s = .next t ∧ NoWork t ∧ (∀ st : Stream, map[st] = roleApplied s.stk.map[st]) ∧
      ((∀ st : Stream, (s.stk.map[st]).pending = none) → ns = []) ∧
      t.ilu = { s.ilu with recordOpen := false } ∧ t.elu = s.elu ∧ t.sus = s.sus ∧ t.flm = s.flm ∧
      t.rel.position = s.rel.position ∧
      t.stk = { s.stk with map := map, contexts := Vector.replicate 16 StreamCtx.idle, items := Vector.replicate 32 none } ∧
      t.dru = noticedAll (grantNotices .withdrawn s.dru.owed)
        { noticedAll ns { s.dru with notices := s.dru.notices ++ [answered 0x0A d.tag .done
            [byteOf (32 - s.stk.items.count none), byteOf (fencesHeld s.rel), byteOf s.dru.owed.length]] } with
          quiesce := .running, owed := [], duty := 0 } ∧
      t.fmc = { discardSlots s.fmc with
        mark := s.sus.working.mark
        pacing := if s.fmc.slots.count .free ≤ s.sus.working.mark then true
          else if s.sus.working.mark + 4 ≤ s.fmc.slots.count .free then false else s.fmc.pacing } := by
  have runs := exec_restart h carried
  simp only at runs
  generalize hq : queued [answered 0x0A d.tag .done
    [byteOf (32 - s.stk.items.count none), byteOf (fencesHeld s.rel), byteOf s.dru.owed.length]] s = q at runs
  have operating : q.flm.part = .operating := by rw [← hq]; exact h.operating
  have sameMap : q.stk.map = s.stk.map := by rw [← hq]; rfl
  obtain ⟨map, ns, applied, nothingApplied⟩ := applyPendings_frame (List.finRange 16) (s := q) (not_bypass_of_operating operating)
  rw [sameMap] at nothingApplied
  have roles (st : Stream) : map[st] = roleApplied s.stk.map[st] := by
    have each := applyPendings_map (List.finRange 16) q st
    rw [applied, if_pos (List.mem_finRange st), sameMap] at each
    exact each
  rw [applied] at runs
  obtain ⟨work, dru, fmc⟩ := restart_leaves (grantNotices .withdrawn s.dru.owed)
    (q := { q with stk := { q.stk with map := map }, dru := noticedAll ns q.dru }) operating
    (fun st => (congrArg MapEntry.pending (roles st)).trans rfl)
  simp only at work dru fmc
  refine ⟨map, ns, _, runs, work, roles, ?_, ?_, ?_, ?_, ?_, ?_, ?_, ?_, ?_⟩
  · exact nothingApplied
  · simp only [pushNotices_ilu, evalPacing_ilu, workDropped_ilu, ← hq]; rfl
  · simp only [pushNotices_elu, evalPacing_elu, workDropped_elu, ← hq]; rfl
  · simp only [pushNotices_sus, evalPacing_sus, workDropped_sus, ← hq]; rfl
  · simp only [pushNotices_flm, evalPacing_flm, workDropped_flm, ← hq]; rfl
  · simp only [pushNotices_rel, evalPacing_rel, workDropped_rel, ← hq]; rfl
  · simp only [pushNotices_stk, evalPacing_stk, workDropped_stk, ← hq]; rfl
  · rw [dru, ← hq]; rfl
  · rw [fmc, ← hq]; rfl

/-- RESTART drops all work, in O48's words (R188, R189). -/
theorem restart_dropsAll (s : State) (d : Directive) (h : Addressed d 0x0A 1 s) (carried : d.params = []) :
    let free := s.fmc.slots.count .free
    ∃ t, exec (.restart d) s = .next t ∧ NoWork t ∧ t.dru.duty = 0 ∧ t.fmc.mark = s.sus.working.mark ∧
      (free ≤ s.sus.working.mark → t.fmc.pacing = true) ∧ (s.sus.working.mark + 4 ≤ free → t.fmc.pacing = false) ∧
      (∀ st : Stream, t.stk.map[st] = roleApplied s.stk.map[st]) ∧
      (∀ k : Slot, t.fmc.slots[k] = if isHeldSlot s.fmc.slots[k] then .scrubbing else s.fmc.slots[k]) ∧
      t.fmc.scrubOrder = s.fmc.scrubOrder ++ (List.finRange 48).filter (fun k => isHeldSlot s.fmc.slots[k]) ∧
      t.fmc.mem = s.fmc.mem ∧ t.fmc.tally = s.fmc.tally ∧ t.elu = s.elu ∧ t.sus = s.sus ∧ t.flm = s.flm ∧
      t.ilu = { s.ilu with recordOpen := false } ∧ t.rel.position = s.rel.position ∧
      t.dru.profiles = s.dru.profiles ∧ t.dru.codeSlots = s.dru.codeSlots ∧ t.dru.toneSlots = s.dru.toneSlots ∧
      t.dru.rules = s.dru.rules ∧ t.stk.orphans = s.stk.orphans ∧ t.stk.accepted = s.stk.accepted ∧
      t.stk.lost = s.stk.lost ∧ t.fmc.corrected = s.fmc.corrected ∧ t.fmc.uncorrectable = s.fmc.uncorrectable ∧
      ((∀ st : Stream, (s.stk.map[st]).pending = none) → s.dru.notices.length + 1 + s.dru.owed.length ≤ 16 →
        t.dru.notices = s.dru.notices ++
          [answered 0x0A d.tag .done
            [byteOf (32 - s.stk.items.count none), byteOf (fencesHeld s.rel), byteOf s.dru.owed.length]] ++
          s.dru.owed.map (fun tag => { kind := .quiesceGrant, status := .withdrawn, subject := 0, tag := tag, fields := [] })) := by
  intro free
  obtain ⟨map, ns, t, runs, work, roles, unapplied, ilu, elu, sus, flm, position, stk, dru, fmc⟩ := restart_drops_work h carried
  have kept : ∃ notices lost, t.dru =
      { s.dru with notices := notices, lost := lost, quiesce := .running, owed := [], duty := 0 } := by
    obtain ⟨_, _, applied⟩ := noticedAll_with ns { s.dru with notices := s.dru.notices ++ [answered 0x0A d.tag .done
      [byteOf (32 - s.stk.items.count none), byteOf (fencesHeld s.rel), byteOf s.dru.owed.length]] }
    rw [applied] at dru
    obtain ⟨_, _, withdrawn⟩ := noticedAll_with (grantNotices .withdrawn s.dru.owed) _
    exact ⟨_, _, dru.trans withdrawn⟩
  obtain ⟨notices, lost, kept⟩ := kept
  refine ⟨t, runs, work, by rw [kept], by rw [fmc], fun few => ?_, fun many => ?_, fun st => ?_, fun k => ?_, ?_, ?_, ?_,
    elu, sus, flm, ilu, position, by rw [kept], by rw [kept], by rw [kept], by rw [kept], by rw [stk], by rw [stk],
    by rw [stk], ?_, ?_, fun settled room => ?_⟩
  · rw [fmc]; exact if_pos few
  · rw [fmc]; exact (if_neg (by omega)).trans (if_pos many)
  · rw [stk]; exact roles st
  · rw [fmc]; simp [discardSlots]
  · simp only [fmc, discardSlots, heldSlots]
  · simp only [fmc, discardSlots]
  · simp only [fmc, discardSlots]
  · simp only [fmc, discardSlots]
  · simp only [fmc, discardSlots]
  · rw [dru, unapplied settled]
    rw [noticedAll_room _ (by simpa [noticedAll, grantNotices] using room)]
    rfl

/-- A parity error in a read that a command makes before its other effects latches TABLE_PARITY (R204, R205). -/
theorem readsBadParity_latches (s : State) (c : Instr) (part : s.flm.part = .operating) (clear : s.flm.latch = none)
    (link : s.elu.link ≠ .between) (bad : readsBadParity s c) :
    ∃ t, exec c s = .next t ∧ Latched .tableParity
      (if (recordOf c).isSome then { s with ilu := { s.ilu with recordOpen := false } } else s) t := by
  have latches (e : exec c s = .next (latch .tableParity (if (recordOf c).isSome then endReceiving s else s))) :
      ∃ t, exec c s = .next t ∧
        Latched .tableParity (if (recordOf c).isSome then { s with ilu := { s.ilu with recordOpen := false } } else s) t := by
    refine ⟨_, e, ?_⟩
    split
    · exact latch_latched (by exact clear) (.inr (by exact part)) (by exact link)
    · exact latch_latched clear (.inr part) link
  have here (e : exec c s = .next (latch .tableParity s)) (noRecord : recordOf c = none) :=
    latches (by rw [e, noRecord]; rfl)
  have owned {st : Stream} {raw : Carried} {n : Nat} (h : reachesTracker s st raw n) (small : n ≤ 16384 := by decide) :
      Owned s st raw := ⟨h.1, part, h.2.1, h.2.2.2 ▸ small⟩
  have fits {st : Stream} {raw : Carried} {n : Nat} (h : reachesTracker s st raw n) : ¬ payloadFaulty raw n = true := by
    simp [payloadFaulty, h.2.2.1, h.2.2.2]
  have sided {st : Stream} {raw : Carried} (h : reachesTracker s st raw 7) (side : param raw.payload 0 1 ≤ 1) :
      ¬ (payloadFaulty raw 7 || decide (1 < param raw.payload 0 1)) = true := by
    simp [Bool.eq_false_iff.mpr (fits h), side]
  unfold readsBadParity at bad
  split at bad
  next st raw => exact latches (by rw [exec_itemOpen_own (owned bad), if_neg (fits bad), itemOpenTaken_badContext]; rfl)
  next st raw =>
    exact latches (by rw [exec_faceOpen_own (owned bad.1), if_neg (sided bad.1 bad.2), withOpenItem_badContext]; rfl)
  next st raw =>
    obtain ⟨n, small, reaches⟩ := bad
    exact latches (by rw [exec_strip_own (owned reaches small), withOpenItem_badContext]; rfl)
  next st raw => exact latches (by rw [exec_itemClose_own (owned bad), if_neg (fits bad), withOpenItem_badContext]; rfl)
  next st raw => exact latches (by rw [exec_itemCancel_own (owned bad), if_neg (fits bad), withOpenItem_badContext]; rfl)
  next st raw =>
    obtain ⟨reaches, ix, openItem⟩ := bad
    exact latches (by
      rw [exec_itemOpen_own (owned reaches), if_neg (fits reaches), itemOpenTaken_badRecord _ _ _ _ (by exact openItem)]; rfl)
  next st raw =>
    obtain ⟨reaches, side, ix, openItem⟩ := bad
    exact latches (by
      rw [exec_faceOpen_own (owned reaches), if_neg (sided reaches side), withOpenItem_badRecord _ (by exact openItem)]; rfl)
  next st raw =>
    obtain ⟨⟨n, small, reaches⟩, ix, openItem⟩ := bad
    exact latches (by rw [exec_strip_own (owned reaches small), withOpenItem_badRecord _ (by exact openItem)]; rfl)
  next st raw =>
    obtain ⟨reaches, ix, openItem⟩ := bad
    exact latches (by
      rw [exec_itemClose_own (owned reaches), if_neg (fits reaches), withOpenItem_badRecord _ (by exact openItem)]; rfl)
  next st raw =>
    obtain ⟨reaches, ix, openItem⟩ := bad
    exact latches (by
      rw [exec_itemCancel_own (owned reaches), if_neg (fits reaches), withOpenItem_badRecord _ (by exact openItem)]; rfl)
  next st raw =>
    obtain ⟨reaches, running, ⟨ix, free⟩, shut⟩ := bad
    obtain ⟨jx, found⟩ := lowestFreeItem_of_free free
    refine latches ?_
    rw [exec_itemOpen_own (owned reaches), if_neg (fits reaches), itemOpenTaken_idle _ _ _ _ (by simp) (by exact shut),
      openOrRefuse, if_neg (not_not.mpr (by exact running))]
    simp only [endReceiving_stk, found]
    rfl
  next st =>
    refine here (congrArg Host.Outcome.next ?_) rfl
    exact (if_pos ⟨part, Option.isSome_iff_ne_none.mpr bad⟩).trans (if_pos rfl)
  next st =>
    obtain ⟨timer, ix, item⟩ := bad
    refine here (congrArg Host.Outcome.next ?_) rfl
    refine (if_pos ⟨part, Option.isSome_iff_ne_none.mpr timer⟩).trans ?_
    simp only [item]
    rfl
  next d =>
    obtain ⟨addressed, n, carried⟩ := bad
    have acts : exec (.readProfile d (some .entry)) s =
        .next (actReadProfile (some .entry) (0x03 :: d.params) d.tag (endReceiving s)) :=
      congrArg _ (directiveArrives_addressed addressed (by rw [carried]; rfl) _)
    have number : param (0x03 :: d.params) 1 1 = n.val := by rw [carried, param_cons_one]; exact byteOf_val_toNat n
    have ok : firstBad [(1, inRange 0 31 (param (0x03 :: d.params) 1 1))] = none := by
      rw [firstBad_single, if_pos (by rw [number]; omega)]
    refine latches ?_
    rw [acts, actReadProfile, checkRange_ok ok, if_pos rfl]
    rfl
  next d =>
    obtain ⟨parity, addressed, st, role, carried⟩ := bad
    have acts : exec (.setStreamRole d) s =
        .next (actSetStreamRole d.parity (0x07 :: d.params) d.tag (endReceiving s)) :=
      congrArg _ (directiveArrives_addressed addressed (by rw [carried]; rfl) _)
    have ok := setStreamRole_ranges carried
    refine latches ?_
    rw [acts, actSetStreamRole, checkRange_ok ok, if_pos parity]
    rfl
  next k =>
    obtain ⟨c, row, rest, bound, waiting, tone, below, ends⟩ := bad
    refine here (congrArg Host.Outcome.next ?_) rfl
    simp only [bound, waiting]
    exact if_pos ⟨trivial, by simp [finishesRow, below, ends], tone⟩
  next =>
    obtain ⟨w, working, phase⟩ := bad
    refine here (congrArg Host.Outcome.next ?_) rfl
    simp only [working]
    exact (if_pos phase).trans (if_pos trivial)
  next =>
    obtain ⟨w, working, d, r, f, converting, phase, item, face⟩ := bad
    refine here (congrArg Host.Outcome.next ?_) rfl
    have found : faceAt s w.item w.face = some f := by simp only [faceAt, itemAt, item, face]
    simp only [converting, phase, found]
    exact if_pos trivial
  next reads =>
    obtain ⟨x, n, i, r, f, k, release, current, offered, item, face, slot, coded⟩ := bad
    refine here (congrArg Host.Outcome.next ?_) rfl
    have found : itemAt s x.item = some r := item
    simp only [release, current, offered, found, face, slot, coded]
    rfl
  next => exact bad.elim

/-! ## A parity error at the decision of an item -/

/-- The part `t` is `s` but for stream contexts, item records and scaling contexts, no item record made or freed. -/
def TrackedFrom (s t : State) : Prop :=
  ∃ contexts items scu, t = { s with stk := { s.stk with contexts := contexts, items := items }, scu := scu } ∧
    ∀ ix : ItemIx, items[ix] = none ↔ s.stk.items[ix] = none

theorem TrackedFrom.refl (s : State) : TrackedFrom s s := ⟨_, _, _, rfl, fun _ => .rfl⟩

theorem TrackedFrom.trans {s t u : State} (h : TrackedFrom s t) (g : TrackedFrom t u) : TrackedFrom s u := by
  obtain ⟨_, _, _, rfl, same⟩ := h
  obtain ⟨contexts, items, scu, rfl, same'⟩ := g
  exact ⟨contexts, items, scu, rfl, fun ix => (same' ix).trans (same ix)⟩

theorem setContext_tracked (st : Stream) (c : StreamCtx) (s : State) : TrackedFrom s (setContext st c s) :=
  ⟨_, s.stk.items, s.scu, rfl, fun _ => .rfl⟩

theorem modItem_tracked (ix : ItemIx) (g : ItemRecord → ItemRecord) (s : State) : TrackedFrom s (modItem ix g s) := by
  refine ⟨s.stk.contexts, _, s.scu, rfl, fun jx => ?_⟩
  by_cases same : ix = jx
  · subst same
    simp [Fin.getElem_fin]
  · rw [Fin.getElem_fin, Vector.getElem_set_ne _ _ fun e => same (Fin.ext e)]
    rfl

theorem restartTimer_tracked (st : Stream) (ix : ItemIx) (s : State) : TrackedFrom s (restartTimer st ix s) := by
  unfold restartTimer
  split
  · exact .refl s
  · exact setContext_tracked _ _ s

theorem handRows_tracked (k : Slot) (rows : List InputRow) (ended : Bool) (s : State) :
    TrackedFrom s (handRows k rows ended s) := ⟨s.stk.contexts, s.stk.items, _, rfl, fun _ => .rfl⟩

theorem shortened_tracked (st : Stream) (ix : ItemIx) (s : State) : TrackedFrom s (shortened st ix s) := by
  unfold shortened completeShort
  split
  · split
    · exact .refl s
    · next n _ _ _ f _ =>
      refine .trans (modItem_tracked ix (fun r => { r with faces := r.faces.modify n (·.setFlags flagShort) }) s) ?_
      split
      · exact (handRows_tracked _ _ _ _).trans (setContext_tracked _ _ _)
      · exact setContext_tracked _ _ _
  · exact .refl s

/-- An item closed and its context idle, before the pending role (R31, R40). -/
def itemClosed (st : Stream) (ix : ItemIx) (flags : BitVec 8) (s : State) : State :=
  let u := modItem ix (fun r =>
    { (r.setFlags (itemFlagIf (decide (r.faces.length < r.declared)) itemMissingFace ||| flags)) with state := .closed })
    (shortened st ix s)
  setContext st { u.stk.contexts[st] with state := .idle, item := none, face := none, timer := none } u

theorem closeItem_itemClosed (st : Stream) (ix : ItemIx) (flags : BitVec 8) (parity : Option ParityRead) (s : State) :
    closeItem st ix flags parity s = relTry parity (decideItem parity ix (applyPending st (itemClosed st ix flags s))) := rfl

theorem itemClosed_tracked (st : Stream) (ix : ItemIx) (flags : BitVec 8) (s : State) :
    TrackedFrom s (itemClosed st ix flags s) :=
  ((shortened_tracked st ix s).trans (modItem_tracked ix _ _)).trans (setContext_tracked st _ _)

theorem decideItem_latches {ix : ItemIx} {s : State} (recorded : s.stk.items[ix] ≠ none) :
    decideItem (some .release) ix s = latch .tableParity s := by
  obtain ⟨r, found⟩ := Option.ne_none_iff_exists'.mp recorded
  simp only [decideItem, itemAt, found]
  rfl

/-- A parity error at the decision that an ITEM_CLOSE makes latches TABLE_PARITY (R143, R204). -/
theorem itemClose_release_latches {s : State} {st : Stream} {raw : Carried} {ix : ItemIx} (part : s.flm.part = .operating)
    (clear : s.flm.latch = none) (link : s.elu.link ≠ .between) (reaches : reachesTracker s st raw 0)
    (openItem : hasOpenItem s st ix) (recorded : s.stk.items[ix] ≠ none) (settled : (s.stk.map[st]).pending = none) :
    ∃ t, exec (.itemClose st raw (some .release)) s = .next t ∧
      Latched .tableParity { s with ilu := { s.ilu with recordOpen := false } } t := by
  obtain ⟨receiving, own, check, length⟩ := reaches
  have fits : ¬ payloadFaulty raw 0 = true := by simp [payloadFaulty, check, length]
  obtain ⟨contexts, items, scu, closed, same⟩ := (restartTimer_tracked st ix (endReceiving s)).trans (itemClosed_tracked st ix 0 _)
  have latched := latch_latched (cause := .tableParity) (s := itemClosed st ix 0 (restartTimer st ix (endReceiving s)))
    (by rw [closed]; exact clear) (.inr (by rw [closed]; exact part)) (by rw [closed]; exact link)
  have runs : exec (.itemClose st raw (some .release)) s =
      .next (latch .tableParity (itemClosed st ix 0 (restartTimer st ix (endReceiving s)))) := by
    rw [exec_itemClose_own ⟨receiving, part, own, length ▸ (by decide)⟩, if_neg fits,
      withOpenItem_handles (fun ix s => closeItem st ix 0 (some .release) s) (by exact openItem) (by simp) (by simp),
      closeItem_itemClosed, applyPending_none (by rw [closed]; exact settled),
      decideItem_latches (by rw [closed]; exact fun none => recorded ((same ix).mp none)), relTry, if_neg]
    rw [latched.flm]
    simp
  refine ⟨_, runs, Latched_congr latched ?_ ?_ ?_ ?_ ?_ ?_ ?_ ?_ ?_ ?_⟩
  all_goals rw [closed]
  · exact fun _ => rfl
  · exact ⟨rfl, rfl, rfl⟩
  all_goals rfl

/-- Settles O48: RESTART part by part, and each of the nineteen reads with its command. -/
theorem restartDropsAllWork : Obligations.RestartDropsAllWork :=
  ⟨restart_dropsAll, readsBadParity_latches, fun _ _ _ _ part clear link reaches openItem recorded settled =>
    itemClose_release_latches part clear link reaches openItem recorded settled⟩

end Sys2Proof.Proofs
end

section
/-! ITEM_OPEN, ITEM_CLOSE and FACE_OPEN with an item open or none (Chapter 2). -/

namespace Sys2Proof.Proofs
open Sys2Proof.Machine Sys2Proof.Safety Sys2Proof.Laws

/-! ## Item and face records known -/

theorem modItem_eq {s : State} {ix : ItemIx} {r : ItemRecord} (g : ItemRecord → ItemRecord) (found : s.stk.items[ix] = some r) :
    modItem ix g s = putItem ix (g r) s := by
  simp only [modItem, found, putItem, Option.map_some]

theorem modFace_eq {s : State} {ix : ItemIx} {r : ItemRecord} {n : Nat} {f : FaceRecord} (g : FaceRecord → FaceRecord)
    (found : s.stk.items[ix] = some r) (face : r.faces[n]? = some f) :
    modFace ix n g s = putItem ix { r with faces := r.faces.set n (g f) } s := by
  obtain ⟨here, rfl⟩ := List.getElem?_eq_some_iff.mp face
  rw [modFace, modItem_eq _ found, List.modify_eq_set_get _ here]
  rfl

theorem faceAt_eq {s : State} {ix : ItemIx} {r : ItemRecord} {n : Nat} (found : s.stk.items[ix] = some r) :
    faceAt s ix n = r.faces[n]? := by
  simp only [faceAt, itemAt, found]

theorem putItem_items (ix : ItemIx) (r : ItemRecord) (s : State) : (putItem ix r s).stk.items[ix] = some r :=
  Vector.getElem_set_self _

theorem putItem_putItem (ix : ItemIx) (r r' : ItemRecord) (s : State) : putItem ix r' (putItem ix r s) = putItem ix r' s := by
  simp only [putItem, Vector.set_set]

theorem setContext_contexts (st : Stream) (c : StreamCtx) (s : State) : (setContext st c s).stk.contexts[st] = c :=
  Vector.getElem_set_self _

theorem setContext_setContext (st : Stream) (c c' : StreamCtx) (s : State) :
    setContext st c' (setContext st c s) = setContext st c' s := by
  simp only [setContext, Vector.set_set]

theorem putItem_setContext (ix : ItemIx) (r : ItemRecord) (st : Stream) (c : StreamCtx) (s : State) :
    putItem ix r (setContext st c s) = setContext st c (putItem ix r s) := rfl

/-- An arrival restarts the stall timer with the item's own period (R42). -/
theorem restartTimer_eq {s : State} {st : Stream} {ix : ItemIx} {r : ItemRecord} (found : s.stk.items[ix] = some r) :
    restartTimer st ix s = setContext st { s.stk.contexts[st] with timer := some r.profile.stallTimeout } s := by
  simp only [restartTimer, itemAt, found]

/-- The rows left of a face go to its slot as white ones, and its input ends (R35). -/
def whiteRows (f : FaceRecord) (rows : Nat) (s : State) : State :=
  match f.slot with
  | some k => handRows k (List.replicate (f.keptHeight - rows) .white) true s
  | none => s

/-- A face being filled completed short, its record being known (R35). -/
theorem completeShort_eq {s : State} {st : Stream} {ix : ItemIx} {r : ItemRecord} {n : Nat} {f : FaceRecord}
    (found : s.stk.items[ix] = some r) (face : r.faces[n]? = some f) :
    completeShort st ix n s = setContext st { s.stk.contexts[st] with state := .item, rows := f.keptHeight }
      (whiteRows f (s.stk.contexts[st]).rows (putItem ix { r with faces := r.faces.set n (f.setFlags flagShort) } s)) := by
  simp only [completeShort, faceAt_eq found, face, modFace_eq _ found face]
  rfl

theorem shortened_inItem {s : State} {st : Stream} {ix : ItemIx} (state : (s.stk.contexts[st]).state ≠ .face) :
    shortened st ix s = s := by
  unfold shortened
  split
  · next face _ => exact absurd face state
  · rfl

theorem handRows_eq {s : State} {k : Slot} {c : ScaleCtx} (rows : List InputRow) (ended : Bool) (bound : s.scu[k] = some c) :
    handRows k rows ended s =
      { s with scu := s.scu.set k (some { c with waiting := c.waiting ++ rows, inputEnded := c.inputEnded || ended }) } := by
  simp only [handRows, bound, Option.map_some]

theorem fits_of {raw : Carried} {len : Nat} (check : checkOk raw = true) (length : raw.payload.length = len) :
    ¬ payloadFaulty raw len = true := by
  simp [payloadFaulty, check, length]

/-! ## ITEM_OPEN with no item open -/

theorem lowestFreeItem_eq {k : Stk} {ix : ItemIx} (free : k.items[ix] = none) (lowest : ∀ j < ix, k.items[j] ≠ none) :
    lowestFreeItem k = some ix := by
  rw [lowestFreeItem, ← Fin.find?_eq_find?_finRange, Fin.find?_eq_some_iff]
  refine ⟨by rw [free]; rfl, fun j below => ?_⟩
  simpa [Option.isNone_eq_false_iff, Option.isSome_iff_ne_none] using lowest j below

theorem lowestFreeItem_none {k : Stk} (used : ∀ j : ItemIx, k.items[j] ≠ none) : lowestFreeItem k = none := by
  refine List.find?_eq_none.mpr fun j _ => ?_
  simpa using used j

/-- A refused ITEM OPEN, in OPERATING (R30). -/
theorem refuseItem_eq {s : State} (st : Stream) (n : Nat) (cause : Byte) (notBypass : s.flm.part ≠ .bypass) (small : n < 2 ^ 32) :
    refuseItem st (BitVec.ofNat 32 n) cause s =
      { s with
        stk := { s.stk with
          contexts := s.stk.contexts.set st
            { s.stk.contexts[st] with state := .discard, item := none, face := none, timer := none }
          lost := satInc s.stk.lost }
        dru := noticed { kind := .itemLost, status := .done, subject := 0, tag := 0,
                         fields := [byteOf st.val] ++ toBE 4 n ++ [cause] } s.dru } := by
  have number : (BitVec.ofNat 32 n).toNat = n := by rw [BitVec.toNat_ofNat, Nat.mod_eq_of_lt small]
  rw [refuseItem, number]
  exact pushNotice_eq (by exact notBypass)

/-- Settles O35: by the cause of the refusal, QUIESCED first. -/
theorem itemOpenRefused : Obligations.ItemOpenRefused := by
  intro s st rec receiving operating own shut check length cannot
  rw [exec_itemOpen_own ⟨receiving, operating, own, length ▸ by decide⟩, if_neg (fits_of check length),
    itemOpenTaken_idle _ _ _ _ (by simp) (by exact shut), openOrRefuse]
  have small : param rec.payload 0 4 < 2 ^ 32 := by simpa using param_lt rec.payload 0 4
  by_cases running : s.dru.quiesce = .running
  · have used := cannot.resolve_left (not_not.mpr running)
    simp only [endReceiving_dru, if_neg (not_not.mpr running), endReceiving_stk, lowestFreeItem_none used, if_pos running]
    exact congrArg _ (refuseItem_eq st _ 0 (by exact not_bypass_of_operating operating) small)
  · rw [if_pos (by exact running), if_neg running]
    exact congrArg _ (refuseItem_eq st _ 1 (by exact not_bypass_of_operating operating) small)

/-- The flags of a new item record as R29 gives them. -/
theorem newItem_flags (declared : Nat) (own : Bool) :
    itemFlagIf (!own) itemProfileSubst ||| itemFlagIf (decide (adjustedCount declared ≠ declared)) itemCountAdjusted =
      (if own then 0 else 0x01) ||| (if declared = 1 ∨ declared = 2 then 0 else 0x10) := by
  have same : adjustedCount declared ≠ declared ↔ ¬ (declared = 1 ∨ declared = 2) := by
    unfold adjustedCount
    split_ifs <;> omega
  simp only [same]
  by_cases two : declared = 1 ∨ declared = 2 <;> cases own <;> simp [two, itemFlagIf, itemProfileSubst, itemCountAdjusted]

theorem adjustedCount_eq (n : Nat) : adjustedCount n = if n = 0 then 1 else if n = 1 then 1 else 2 := by
  unfold adjustedCount
  split_ifs <;> omega

/-- The profile of a new item: its own where valid, else profile 0, marked (R29). -/
theorem chosenProfile_eq (d : Dru) (number : Nat) :
    let own : Bool := if h : number < 32 then (d.profiles[number]).valid else false
    chosenProfile d number = (if h : number < 32 then (if own then (d.profiles[number]).fields else (d.profiles[0]).fields)
      else (d.profiles[0]).fields, !own) := by
  intro own
  by_cases h : number < 32
  · cases valid : (d.profiles[number]).valid <;> simp [chosenProfile, own, h, valid]
  · simp [chosenProfile, own, h]

/-- ITEM_OPEN in IDLE or DISCARD, an entry being free, opens an item, in O34's words (R29). -/
theorem itemOpen_opens (s : State) (st : Stream) (rec : Carried) (ix : ItemIx) (receiving : s.ilu.recordOpen = true)
    (operating : s.flm.part = .operating) (own : (s.stk.map[st]).role = .own)
    (shut : (s.stk.contexts[st]).state = .idle ∨ (s.stk.contexts[st]).state = .discard) (running : s.dru.quiesce = .running)
    (check : checkOk rec = true) (length : rec.payload.length = 6) (free : s.stk.items[ix] = none)
    (lowest : ∀ j < ix, s.stk.items[j] ≠ none) :
    let r := newItem st (BitVec.ofNat 32 (param rec.payload 0 4)) (param rec.payload 4 1) (chosenProfile s.dru (param rec.payload 5 1))
    exec (.itemOpen st rec none) s = .next
      { s with
        ilu := { s.ilu with recordOpen := false }
        stk := { s.stk with
          items := s.stk.items.set ix (some r)
          contexts := s.stk.contexts.set st
            { state := .item, item := some ix, face := none, rows := 0, timer := some r.profile.stallTimeout }
          accepted := satInc s.stk.accepted }
        rel := { s.rel with queues := s.rel.queues.set st (s.rel.queues[st] ++ [.item ix false]) } } := by
  rw [exec_itemOpen_own ⟨receiving, operating, own, length ▸ by decide⟩, if_neg (fits_of check length),
    itemOpenTaken_idle _ _ _ _ (by simp) (by exact shut), openOrRefuse, if_neg (not_not.mpr (by exact running))]
  simp only [endReceiving_stk, lowestFreeItem_eq free lowest]
  rfl

/-! ## ITEM_CLOSE -/

theorem itemClosed_eq {st : Stream} {ix : ItemIx} {s u : State} {r : ItemRecord} (flags : BitVec 8) (short : shortened st ix s = u)
    (found : u.stk.items[ix] = some r) :
    itemClosed st ix flags s = setContext st { u.stk.contexts[st] with state := .idle, item := none, face := none, timer := none }
      (putItem ix { r with
        flags := r.flags ||| ((if r.faces.length < r.declared then 0x04 else 0) ||| flags), state := .closed } u) := by
  have missing : itemFlagIf (decide (r.faces.length < r.declared)) itemMissingFace =
      if r.faces.length < r.declared then 0x04 else 0 := by
    simp [itemFlagIf, itemMissingFace]
  rw [itemClosed, short, modItem_eq _ found, missing]
  rfl

/-- A CLOSED item is decided where every face is FINAL (R143). -/
def decidedWhereFinal (r : ItemRecord) : ItemRecord :=
  if ∀ f ∈ r.faces, f.state = .final then { r with state := .decided, outcome := some (itemOutcome r) } else r

theorem decideItem_eq {ix : ItemIx} {s : State} {r : ItemRecord} (found : s.stk.items[ix] = some r) (closed : r.state = .closed) :
    decideItem none ix s = putItem ix (decidedWhereFinal r) s := by
  have same : putItem ix r s = s := by
    rw [putItem, ← found]
    simp only [Fin.getElem_fin, Vector.set_getElem_self]
  simp only [decideItem, itemAt, found, closed, decidedWhereFinal]
  rw [if_neg (by simp)]
  by_cases final : ∀ f ∈ r.faces, f.state = .final
  · rw [if_pos ⟨trivial, by simpa using final⟩, if_pos final, modItem_eq _ found]
  · rw [if_neg (by simpa using final), if_neg final, same]

theorem relTry_busy {s : State} (busy : s.rel.release ≠ none) : relTry none s = s := if_neg fun h => busy h.2

theorem putItem_applyPending (ix : ItemIx) (r : ItemRecord) (st : Stream) (s : State) :
    putItem ix r (applyPending st s) = applyPending st (putItem ix r s) := by
  unfold applyPending pushNotice putItem
  cases pending : (s.stk.map[st]).pending with
  | none => rfl
  | some held =>
    simp only
    split_ifs <;> rfl

theorem applyPending_items (st : Stream) (s : State) : (applyPending st s).stk.items = s.stk.items := by
  unfold applyPending
  split <;> simp

/-- An ITEM_CLOSE, the part with its face completed short being `u` (R40, R143, R153). -/
theorem closeItem_closes {st : Stream} {ix : ItemIx} {s u : State} {r : ItemRecord} (flags : BitVec 8) (short : shortened st ix s = u)
    (found : u.stk.items[ix] = some r) :
    closeItem st ix flags none s = relTry none (applyPending st
      (setContext st { u.stk.contexts[st] with state := .idle, item := none, face := none, timer := none }
        (putItem ix (decidedWhereFinal { r with
          flags := r.flags ||| ((if r.faces.length < r.declared then 0x04 else 0) ||| flags), state := .closed }) u))) := by
  rw [closeItem_itemClosed, itemClosed_eq flags short found,
    decideItem_eq (by rw [applyPending_items]; exact putItem_items _ _ _) rfl, putItem_applyPending, putItem_setContext,
    putItem_putItem]

theorem exec_itemClose_closes {s u : State} {st : Stream} {raw : Carried} {ix : ItemIx} {r : ItemRecord}
    (h : Owned s st raw) (empty : raw.payload = []) (openItem : hasOpenItem s st ix)
    (short : shortened st ix (restartTimer st ix (endReceiving s)) = u) (found : u.stk.items[ix] = some r) :
    exec (.itemClose st raw none) s = .next (relTry none (applyPending st
      (setContext st { u.stk.contexts[st] with state := .idle, item := none, face := none, timer := none }
        (putItem ix (decidedWhereFinal { r with
          flags := r.flags ||| (if r.faces.length < r.declared then 0x04 else 0), state := .closed }) u)))) := by
  have fits : ¬ payloadFaulty raw 0 = true := by simp [payloadFaulty, checkOk, empty]
  have noFlag (x : BitVec 8) : x ||| 0 = x := BitVec.or_zero
  rw [exec_itemClose_own h, if_neg fits, withOpenItem_handles (fun ix s => closeItem st ix 0 none s) (by exact openItem)
    (by simp) (by simp), closeItem_closes 0 short found, noFlag]

/-- Settles O39: the item closed, the pending role applied, the choice of a release last. -/
theorem itemCloseClosesItem : Obligations.ItemCloseClosesItem := by
  intro s st rec ix r receiving operating own state item found empty r' closed stk ended applied
  have restarted : restartTimer st ix (endReceiving s) =
      setContext st { s.stk.contexts[st] with timer := some r.profile.stallTimeout } (endReceiving s) :=
    restartTimer_eq (by exact found)
  have short : shortened st ix (restartTimer st ix (endReceiving s)) = _ :=
    (shortened_inItem (by rw [restarted, setContext_contexts, state]; simp)).trans restarted
  have closes := exec_itemClose_closes ⟨receiving, operating, own, by simp [empty]⟩ empty ⟨.inl state, item⟩ short
    (by exact found)
  have finished : setContext st { state := .idle, item := none, face := none, timer := none, rows := (s.stk.contexts[st]).rows }
      (putItem ix closed (endReceiving s)) = ended := rfl
  have decided : decidedWhereFinal { r' with state := .closed } = closed := by
    simp only [decidedWhereFinal, closed]
    split_ifs <;> rfl
  rw [setContext_contexts, putItem_setContext, setContext_setContext, decided, finished] at closes
  have applies : applyPending st ended = applied := by
    cases pending : (s.stk.map[st]).pending with
    | none => simp only [applied, pending]; exact applyPending_none pending
    | some held =>
      simp only [applied, pending]
      exact applyPending_some (by exact pending) (by exact not_bypass_of_operating operating)
  rw [applies] at closes
  have release : applied.rel = s.rel := by rw [← applies]; exact applyPending_rel st ended
  refine ⟨fun none => ?_, fun none busy => ?_, fun busy => ?_, closes⟩
  · obtain ⟨items, position, chosen, same⟩ := relTry_none_frame applied
    have still : applied = ended := by rw [← applies]; exact applyPending_none none
    rw [same, still] at closes
    exact ⟨_, closes, rfl, rfl, rfl, rfl, rfl, rfl, rfl, rfl⟩
  · exact closes.trans (congrArg _ ((relTry_busy (by rwa [release])).trans (applies.symm.trans (applyPending_none none))))
  · rw [closes, relTry_busy (by rwa [release])]

/-- The part with face `n` of an item marked SHORT and its rows handed over as white ones (R35). -/
def faceShort (ix : ItemIx) (r : ItemRecord) (n : Nat) (f : FaceRecord) (k : Slot) (c : ScaleCtx) (rows : Nat) (s : State) : State :=
  { s with
    stk := { s.stk with
      items := s.stk.items.set ix (some { r with faces := r.faces.set n { f with flags := f.flags ||| flagShort } }) }
    scu := s.scu.set k (some { c with
      waiting := c.waiting ++ List.replicate (f.keptHeight - rows) .white, inputEnded := true }) }

/-- The face being filled of a stream with an item open: its record, slot and scaling context (R25, R28, R48). -/
structure Filling (s : State) (st : Stream) (ix : ItemIx) (r : ItemRecord) (n : Nat) (f : FaceRecord) (k : Slot) (c : ScaleCtx) :
    Prop where
  state : (s.stk.contexts[st]).state = .face
  item : (s.stk.contexts[st]).item = some ix
  face : (s.stk.contexts[st]).face = some n
  found : s.stk.items[ix] = some r
  placed : r.faces[n]? = some f
  slot : f.slot = some k
  bound : s.scu[k] = some c

/-- A face being filled completed short, the stall timer restarted before (R35, R42). -/
theorem shortened_restarted {s : State} {st : Stream} {ix : ItemIx} {r : ItemRecord} {n : Nat} {f : FaceRecord} {k : Slot}
    {c : ScaleCtx} (h : Filling s st ix r n f k c) :
    shortened st ix (restartTimer st ix s) =
      setContext st { s.stk.contexts[st] with state := .item, rows := f.keptHeight, timer := some r.profile.stallTimeout }
        (faceShort ix r n f k c (s.stk.contexts[st]).rows s) := by
  have context := setContext_contexts st { s.stk.contexts[st] with timer := some r.profile.stallTimeout } s
  rw [← restartTimer_eq h.found] at context
  have completes : shortened st ix (restartTimer st ix s) = completeShort st ix n (restartTimer st ix s) := by
    simp only [shortened, context, h.state, h.face]
  have handed (rows : Nat) (u : State) :
      whiteRows f rows u = handRows k (List.replicate (f.keptHeight - rows) .white) true u := by simp only [whiteRows, h.slot]
  rw [completes, completeShort_eq (by rw [restartTimer_eq h.found]; exact h.found) h.placed, handed, context,
    handRows_eq _ _ (by rw [restartTimer_eq h.found]; exact h.bound), Bool.or_true, restartTimer_eq h.found]
  exact setContext_setContext st _ _ (faceShort ix r n f k c _ s)

/-- Settles O41: the close of an item whose open face was completed short. -/
theorem openFaceCompletedShort : Obligations.OpenFaceCompletedShort := by
  intro s st rec ix r n f k c receiving operating own state item face found placed filling slot bound empty short missing closed applied
  have shorter := shortened_restarted (s := endReceiving s) ⟨state, item, face, found, placed, slot, bound⟩
  have closes := exec_itemClose_closes ⟨receiving, operating, own, by simp [empty]⟩ empty ⟨.inr state, item⟩ shorter
    (Vector.getElem_set_self _)
  have unsettled : ¬ ∀ g ∈ r.faces.set n short, g.state = .final := fun all => by
    have inRange := (List.getElem?_eq_some_iff.mp placed).1
    have final := all short (List.mem_iff_getElem.mpr ⟨n, by simpa using inRange, List.getElem_set_self _⟩)
    exact absurd (filling.symm.trans final) (by decide)
  have finished : putItem ix { r with faces := r.faces.set n short, flags := r.flags ||| missing, state := .closed }
      (faceShort ix r n f k c (s.stk.contexts[st]).rows (endReceiving s)) = { closed with stk := { closed.stk with
        contexts := s.stk.contexts } } := by
    simp only [putItem, faceShort, Vector.set_set]
    rfl
  have applies : applyPending st closed = applied := by
    cases pending : (s.stk.map[st]).pending with
    | none => simp only [applied, pending]; exact applyPending_none pending
    | some held =>
      simp only [applied, pending]
      exact applyPending_some (by exact pending) (by exact not_bypass_of_operating operating)
  rw [decidedWhereFinal, if_neg (by exact unsettled), setContext_contexts, putItem_setContext, setContext_setContext] at closes
  simp only [List.length_set] at closes
  rw [← applies]
  refine closes.trans (congrArg (fun u => Host.Outcome.next (relTry none (applyPending st u))) ?_)
  exact congrArg (setContext st _) finished

/-! ## ITEM_OPEN with an item open -/

/-- The face being filled, with its place in the face list. -/
def openFace (c : StreamCtx) (faces : List FaceRecord) : Option (Nat × FaceRecord) :=
  if c.state = .face then c.face.bind (fun n => (faces[n]?).map (fun f => (n, f))) else none

/-- The scaling contexts once the rows left of a face have been handed over as white ones. -/
def whiteScu (f : FaceRecord) (rows : Nat) (scu : Vector (Option ScaleCtx) 48) : Vector (Option ScaleCtx) 48 :=
  match f.slot with
  | some k => scu.set k ((scu[k]).map (fun c =>
      { c with waiting := c.waiting ++ List.replicate (f.keptHeight - rows) .white, inputEnded := c.inputEnded || true }))
  | none => scu

theorem whiteRows_eq (f : FaceRecord) (rows : Nat) (s : State) :
    whiteRows f rows s = { s with scu := whiteScu f rows s.scu } := by
  unfold whiteRows whiteScu
  split <;> rfl

/-- What completing an open face short makes of a stream's context, of the face records of its item, and of the scaling contexts
(R35, R40). -/
def shortParts (c : StreamCtx) (faces : List FaceRecord) (scu : Vector (Option ScaleCtx) 48) :
    StreamCtx × List FaceRecord × Vector (Option ScaleCtx) 48 :=
  match openFace c faces with
  | some (n, f) =>
    ({ c with state := .item, rows := f.keptHeight }, faces.set n (f.setFlags flagShort), whiteScu f c.rows scu)
  | none => (c, faces, scu)

/-- The part with these face records in an item, and these scaling contexts. -/
def putFaces (ix : ItemIx) (r : ItemRecord) (p : List FaceRecord × Vector (Option ScaleCtx) 48) (s : State) : State :=
  { putItem ix { r with faces := p.1 } s with scu := p.2 }

theorem shortened_parts {s : State} {st : Stream} {ix : ItemIx} {r : ItemRecord} (found : s.stk.items[ix] = some r) :
    shortened st ix s = setContext st (shortParts s.stk.contexts[st] r.faces s.scu).1
      (putFaces ix r (shortParts s.stk.contexts[st] r.faces s.scu).2 s) := by
  have same : setContext st s.stk.contexts[st] (putFaces ix r (r.faces, s.scu) s) = s := by
    have kept : s.stk.items.set ix (some r) = s.stk.items := by
      rw [← found]; exact Vector.set_getElem_self _
    have context : s.stk.contexts.set st s.stk.contexts[st] = s.stk.contexts := Vector.set_getElem_self _
    simp only [setContext, putFaces, putItem, kept, context]
  unfold shortParts
  cases opened : openFace s.stk.contexts[st] r.faces with
  | none =>
    simp only [same]
    unfold shortened
    split
    · next n state face =>
      have missing : r.faces[n]? = none := by
        rw [openFace, if_pos state, face] at opened
        simpa using opened
      simp only [completeShort, faceAt_eq found, missing]
    · rfl
  | some held =>
    obtain ⟨state, n, face, f, placed, rfl⟩ :
        (s.stk.contexts[st]).state = .face ∧ ∃ n, (s.stk.contexts[st]).face = some n ∧ ∃ f, r.faces[n]? = some f ∧ (n, f) = held := by
      simpa [openFace, Option.bind_eq_some_iff] using opened
    have completes : shortened st ix s = completeShort st ix n s := by simp only [shortened, state, face]
    rw [completes, completeShort_eq found placed, whiteRows_eq]
    rfl

theorem shortParts_timer (c : StreamCtx) (faces : List FaceRecord) (scu : Vector (Option ScaleCtx) 48) (timer : Option Nat) :
    shortParts { c with timer := timer } faces scu =
      ({ (shortParts c faces scu).1 with timer := timer }, (shortParts c faces scu).2) := by
  have same : openFace { c with timer := timer } faces = openFace c faces := rfl
  unfold shortParts
  rw [same]
  cases openFace c faces <;> rfl

/-- An item closed in terms of its context, faces and scaling contexts alone (R40). -/
theorem closeItem_parts {s : State} {st : Stream} {ix : ItemIx} {r : ItemRecord} {c : StreamCtx} {faces : List FaceRecord}
    {scu : Vector (Option ScaleCtx) 48} (flags : BitVec 8) (found : s.stk.items[ix] = some r)
    (parts : shortParts s.stk.contexts[st] r.faces s.scu = (c, faces, scu)) :
    closeItem st ix flags none s = relTry none (applyPending st
      (setContext st { c with state := .idle, item := none, face := none, timer := none }
        { putItem ix (decidedWhereFinal { r with
            faces := faces, flags := r.flags ||| ((if faces.length < r.declared then 0x04 else 0) ||| flags), state := .closed }) s
          with scu := scu })) := by
  have short := shortened_parts (st := st) found
  rw [parts] at short
  rw [closeItem_closes flags short (putItem_items ix _ _), setContext_contexts, putItem_setContext, setContext_setContext]
  simp only [putFaces, putItem, Vector.set_set]


theorem applyPending_contexts (st : Stream) (s : State) : (applyPending st s).stk.contexts = s.stk.contexts := by
  unfold applyPending
  split <;> simp

/-- An ITEM_OPEN with an item open closes it, and is handled as the role then in force says (R24, R31). -/
theorem itemOpenTaken_closes (r : Record) {st : Stream} {ix : ItemIx} (seq : BitVec 32) (declared number : Nat) {s u : State}
    (h : hasOpenItem s st ix) (closes : closeItem st ix itemImplicitClose none s = u) (clear : u.flm = s.flm) :
    itemOpenTaken r st seq declared number none s =
      if (u.stk.map[st]).role = .pass then offerPass r u else openOrRefuse st seq declared number none u := by
  have still : latchedSince s u = false := by
    unfold latchedSince
    rw [clear]
    cases s.flm.latch <;> rfl
  have goesOn : (if latchedSince s u = true then u
      else if (u.stk.map[st]).role = .pass then offerPass r u else openOrRefuse st seq declared number none u) =
      if (u.stk.map[st]).role = .pass then offerPass r u else openOrRefuse st seq declared number none u :=
    if_neg (by rw [still]; decide)
  rw [← goesOn, itemOpenTaken, if_neg (by decide)]
  obtain ⟨state | state, item⟩ := h <;> simp only [state, item, if_neg (show ¬ none = some ParityRead.record by decide), closes]

/-- The implicit close of an item is the close of that item marked IMPLICIT_CLOSE (R31). -/
theorem closeItem_implicit {s : State} {st : Stream} {ix : ItemIx} {r : ItemRecord} (found : s.stk.items[ix] = some r) :
    closeItem st ix itemImplicitClose none s =
      closeItem st ix 0 none (restartTimer st ix (putItem ix { r with flags := r.flags ||| itemImplicitClose } s)) := by
  have marked := putItem_items ix { r with flags := r.flags ||| itemImplicitClose } s
  have context : (restartTimer st ix (putItem ix { r with flags := r.flags ||| itemImplicitClose } s)).stk.contexts[st] =
      { s.stk.contexts[st] with timer := some r.profile.stallTimeout } := by
    rw [restartTimer_eq marked, setContext_contexts]
    rfl
  have flags (missing : BitVec 8) :
      r.flags ||| (missing ||| itemImplicitClose) = (r.flags ||| itemImplicitClose) ||| (missing ||| 0) := by
    rw [show missing ||| 0 = missing from BitVec.or_zero, BitVec.or_comm missing, BitVec.or_assoc]
  obtain ⟨⟨c, faces, scu⟩, parts⟩ : ∃ p, shortParts s.stk.contexts[st] r.faces s.scu = p := ⟨_, rfl⟩
  have parts' : shortParts { s.stk.contexts[st] with timer := some r.profile.stallTimeout } r.faces s.scu =
      ({ c with timer := some r.profile.stallTimeout }, faces, scu) := by rw [shortParts_timer, parts]
  rw [closeItem_parts itemImplicitClose found parts,
    closeItem_parts (c := { c with timer := some r.profile.stallTimeout }) (faces := faces) (scu := scu) 0
      (r := { r with flags := r.flags ||| itemImplicitClose }) (by rw [restartTimer_eq marked]; exact marked)
      (by rw [context, restartTimer_eq marked]; exact parts'), flags]
  refine congrArg (fun u => relTry none (applyPending st u)) ?_
  rw [restartTimer_eq marked]
  simp only [putItem, setContext, Vector.set_set]

/-- ITEM_OPEN with an item open, in O34's words (R31). -/
theorem itemOpen_closesFirst (s : State) (st : Stream) (raw : Carried) (ix : ItemIx) (receiving : s.ilu.recordOpen = true)
    (operating : s.flm.part = .operating) (own : (s.stk.map[st]).role = .own) (openItem : hasOpenItem s st ix)
    (recorded : s.stk.items[ix] ≠ none) (check : checkOk raw = true) (length : raw.payload.length = 6) :
    let marked : State := { s with stk := { s.stk with
      items := s.stk.items.set ix ((s.stk.items[ix]).map (fun r => { r with flags := r.flags ||| 0x02 })) } }
    ∃ u, exec (.itemClose st { tag := 0, payload := [], check := 0 } none) marked = .next u ∧
      (u.stk.contexts[st]).state = .idle ∧
      exec (.itemOpen st raw none) s = exec (.itemOpen st raw none) { u with ilu := s.ilu } := by
  intro marked
  obtain ⟨r, found⟩ := Option.ne_none_iff_exists'.mp recorded
  have implicit : marked.stk.items[ix] = some { r with flags := r.flags ||| 0x02 } := by
    rw [show marked.stk.items[ix] = _ from Vector.getElem_set_self _, found]
    rfl
  have marks : endReceiving marked = putItem ix { r with flags := r.flags ||| itemImplicitClose } (endReceiving s) := by
    simp only [marked, found]
    rfl
  have closed := closeItem_implicit (st := st) (s := endReceiving s) (by exact found)
  rw [← marks] at closed
  have runs : exec (.itemClose st { tag := 0, payload := [], check := 0 } none) marked =
      .next (closeItem st ix 0 none (restartTimer st ix (endReceiving marked))) := by
    rw [exec_itemClose_own (s := marked) ⟨receiving, operating, own, by simp⟩, if_neg (by simp [payloadFaulty, checkOk]),
      withOpenItem_handles (fun ix s => closeItem st ix 0 none s) (by exact openItem) (by simp) (by simp)]
  rw [← closed] at runs
  generalize made : closeItem st ix itemImplicitClose none (endReceiving s) = u at runs
  obtain ⟨flm, ilu, context⟩ : u.flm = s.flm ∧ u.ilu = (endReceiving s).ilu ∧ (u.stk.contexts[st]).state = .idle := by
    rw [closeItem_parts itemImplicitClose (by exact found) rfl] at made
    obtain ⟨items, position, release, same⟩ := relTry_none_frame (applyPending st _)
    rw [same] at made
    subst made
    refine ⟨applyPending_flm _ _, applyPending_ilu _ _, ?_⟩
    simp only [applyPending_contexts, setContext_contexts]
  refine ⟨u, runs, context, ?_⟩
  have taken : endReceiving { u with ilu := s.ilu } = u := by
    rw [endReceiving]
    exact congrArg (fun i => { u with ilu := i }) ilu.symm
  rw [exec_itemOpen_own ⟨receiving, operating, own, length ▸ by decide⟩, if_neg (fits_of check length),
    itemOpenTaken_closes _ _ _ _ (by exact openItem) made flm]
  cases role : (u.stk.map[st]).role with
  | pass =>
    rw [if_pos rfl, exec_passes (s := { u with ilu := s.ilu }) rfl (headerFaulty_stream 0x10 st raw (by decide) (length ▸ by decide))
      receiving (.inl ⟨.inr (by rw [flm]; exact operating), ?_⟩)]
    · rw [if_neg (by rw [flm, operating]; decide)]
      exact congrArg (fun v => Host.Outcome.next (offerPass _ v)) taken.symm
    · exact Bool.or_eq_true_iff.mpr (.inr (decide_eq_true role))
  | own =>
    rw [exec_itemOpen_own (s := { u with ilu := s.ilu }) ⟨receiving, by rw [flm]; exact operating, role, length ▸ by decide⟩,
      if_neg (fits_of check length), taken, itemOpenTaken_idle _ _ _ _ (by simp) (.inl context), if_neg (by decide)]

/-- Settles O34: the item opened, and the implicit close as the close of the item so marked. -/
theorem itemOpenOpensItem : Obligations.ItemOpenOpensItem := by
  refine ⟨fun s st rec ix receiving operating own shut running check length free lowest => ?_, itemOpen_closesFirst⟩
  intro declared number own' profile
  refine (itemOpen_opens s st rec ix receiving operating own shut running check length free lowest).trans ?_
  rw [newItem, chosenProfile_eq]
  simp only
  rw [newItem_flags, adjustedCount_eq]

end Sys2Proof.Proofs
end

section
/-! FACE_OPEN and STRIP (Chapter 2). -/

namespace Sys2Proof.Proofs
open Sys2Proof.Machine Sys2Proof.Safety Sys2Proof.Laws

/-! ## FACE_OPEN -/

/-- A sound FACE_OPEN with an item open (R32 to R35, R42). -/
theorem exec_faceOpen_open {s : State} {st : Stream} {raw : Carried} {ix : ItemIx} (h : Owned s st raw) (openItem : hasOpenItem s st ix)
    (check : checkOk raw = true) (length : raw.payload.length = 7) (sided : param raw.payload 0 1 ≤ 1) :
    exec (.faceOpen st raw none) s = .next (faceOpenTaken st (if param raw.payload 0 1 = 0 then .front else .back)
      (param raw.payload 1 2) (param raw.payload 3 2) (param raw.payload 5 2) ix (restartTimer st ix (endReceiving s))) := by
  have fits : ¬ (payloadFaulty raw 7 || decide (1 < param raw.payload 0 1)) = true := by
    simp [Bool.eq_false_iff.mpr (fits_of check length), sided]
  rw [exec_faceOpen_own h, if_neg fits, withOpenItem_handles _ (by exact openItem) (by simp) (by simp)]

/-- A FACE_OPEN that finds the context in ITEM (R32 to R34). -/
theorem faceOpenTaken_inItem {s : State} {st : Stream} {ix : ItemIx} {r : ItemRecord} (side : Side) (dpi width height : Nat)
    (found : s.stk.items[ix] = some r) (state : (s.stk.contexts[st]).state = .item) :
    faceOpenTaken st side dpi width height ix (restartTimer st ix s) =
      if isExtraFace r side then
        setContext st { s.stk.contexts[st] with face := none, timer := some r.profile.stallTimeout }
          (putItem ix { r with flags := r.flags ||| itemExtraFace } s)
      else createFace st ix r side dpi width height
        (setContext st { s.stk.contexts[st] with timer := some r.profile.stallTimeout } s) := by
  have context := setContext_contexts st { s.stk.contexts[st] with timer := some r.profile.stallTimeout } s
  have restarted : (restartTimer st ix s).stk.items[ix] = some r := by rw [restartTimer_eq found]; exact found
  rw [faceOpenTaken_eq, shortened_inItem (by rw [restartTimer_eq found, context, state]; simp)]
  simp only [itemAt, restarted]
  split
  · rw [modItem_eq _ restarted, restartTimer_eq found, putItem_setContext, setContext_contexts, setContext_setContext]
    rfl
  · rw [restartTimer_eq found]

theorem clampedDpi_eq (dpi : Nat) : clampedDpi dpi = max 100 (min 400 dpi) := by
  unfold clampedDpi
  split_ifs <;> omega

theorem isExtraFace_iff (r : ItemRecord) (side : Side) :
    isExtraFace r side = true ↔ r.declared ≤ r.faces.length ∨ ∃ f ∈ r.faces, f.side = side := by
  simp [isExtraFace]

theorem appendFace_eq {s : State} {st : Stream} {ix : ItemIx} {r : ItemRecord} (n : Nat) (f : FaceRecord) (state : CtxState)
    (rows : Nat) (found : s.stk.items[ix] = some r) :
    appendFace st ix n f state rows s = setContext st { s.stk.contexts[st] with state := state, face := some n, rows := rows }
      (putItem ix { r with faces := r.faces ++ [f] } s) := by
  rw [appendFace, modItem_eq _ found]
  rfl

theorem lowestFreeSlot_none {f : Fmc} (used : ∀ k : Slot, f.slots[k] ≠ .free) : lowestFreeSlot f = none := by
  refine List.find?_eq_none.mpr fun k _ => ?_
  simpa using used k

theorem lowestFreeSlot_eq {f : Fmc} {k : Slot} (free : f.slots[k] = .free) (lowest : ∀ j < k, f.slots[j] ≠ .free) :
    lowestFreeSlot f = some k := by
  rw [lowestFreeSlot, ← Fin.find?_eq_find?_finRange, Fin.find?_eq_some_iff]
  exact ⟨by simpa using free, fun j below => by simpa using lowest j below⟩

/-- Settles O37: an extra face, bad geometry, and no slot free, in the order of the checks. -/
theorem faceOpenNotFilled : Obligations.FaceOpenNotFilled := by
  intro s st rec ix r receiving operating own state item found check length sided side dpi width height extra badSize context
  have opens := exec_faceOpen_open ⟨receiving, operating, own, length ▸ by decide⟩ ⟨.inl state, item⟩ check length sided
  rw [faceOpenTaken_inItem (s := endReceiving s) _ _ _ _ (by exact found) (by exact state)] at opens
  refine ⟨fun isExtra => ?_, fun notExtra unfilled => ?_⟩
  · rw [opens, if_pos ((isExtraFace_iff r side).mpr isExtra)]
    rfl
  · rw [if_neg (by rwa [isExtraFace_iff])] at opens
    change exec (.faceOpen st rec none) s =
      .next (createFace st ix r side dpi width height (setContext st context (endReceiving s))) at opens
    have refused (f : FaceRecord) : appendFace st ix r.faces.length f .item (s.stk.contexts[st]).rows
        (setContext st context (endReceiving s)) =
        { s with
          ilu := { s.ilu with recordOpen := false }
          stk := { s.stk with
            items := s.stk.items.set ix (some { r with faces := r.faces ++ [f] })
            contexts := s.stk.contexts.set st { context with face := some r.faces.length } } } := by
      rw [appendFace_eq _ _ _ _ (by exact found), setContext_contexts, putItem_setContext, setContext_setContext]
      simp only [context, ← state]
      rfl
    have rows : ((setContext st context (endReceiving s)).stk.contexts[st]).rows = (s.stk.contexts[st]).rows := by
      rw [setContext_contexts]
    by_cases bad : badSize
    · refine ⟨(newFace side dpi width height 0 0).refuse .refusedGeometry, ?_,
        rfl, rfl, rfl, rfl, rfl, rfl, rfl, clampedDpi_eq dpi, fun _ => rfl, fun good => absurd bad good⟩
      rw [opens, createFace, if_pos (by exact bad), rows]
      exact congrArg _ (refused _)
    · have used := unfilled.resolve_left bad
      refine ⟨((newFace side dpi width height (min width 2560) (min height 1280)).setFlags
          (flagIf (decide (min width 2560 ≠ width ∨ min height 1280 ≠ height)) flagCropped)).refuse .refusedNoSlot, ?_,
        rfl, rfl, rfl, rfl, rfl, rfl, rfl, clampedDpi_eq dpi, fun worse => absurd worse bad, fun _ => rfl⟩
      rw [opens, createFace, if_neg (by exact bad), rows]
      simp only [lowestFreeSlot_none (f := (setContext st context (endReceiving s)).fmc) used]
      exact congrArg _ (refused _)

/-- The record of a face that takes a slot (R28, R33, R66 to R68). -/
theorem filledFace_flags (dpi width height : Nat) (outDpi : Nat) :
    (flagIf (decide (clampedDpi dpi ≠ dpi)) flagResClamped |||
        flagIf (decide (min width 2560 ≠ width ∨ min height 1280 ≠ height)) flagCropped) |||
      flagIf (decide (clampedDpi dpi ≤ outDpi)) flagNotReduced =
    flagIf (max 100 (min 400 dpi) != dpi) flagResClamped |||
      flagIf (decide (2560 < width) || decide (1280 < height)) flagCropped |||
      flagIf (decide (max 100 (min 400 dpi) ≤ outDpi)) flagNotReduced := by
  have clamped : decide (clampedDpi dpi ≠ dpi) = (max 100 (min 400 dpi) != dpi) := by
    rw [clampedDpi_eq]
    rcases Nat.decEq (max 100 (min 400 dpi)) dpi with ne | eq
    · simp [ne]
    · simp [eq]
  have cropped : decide (min width 2560 ≠ width ∨ min height 1280 ≠ height) = (decide (2560 < width) || decide (1280 < height)) := by
    rw [← Bool.decide_or]
    exact decide_eq_decide.mpr (by omega)
  rw [clamped, cropped, clampedDpi_eq]

theorem count_free_takes {slots : Vector SlotState 48} {k : Slot} (free : slots[k] = .free) :
    (slots.set k .filling).count .free = slots.count .free - 1 := by
  rw [Vector.count_set]
  have was : slots[k.val] = .free := free
  simp [was]

/-- The record of a face that takes a slot (R28, R33, R34, R66 to R68). -/
def filledFace (side : Side) (dpi width height outDpi : Nat) (k : Slot) : FaceRecord :=
  let clamped := max 100 (min 400 dpi)
  let S := scaleStep clamped outDpi
  { side := side, captureDpi := clamped, declWidth := width, declHeight := height, keptWidth := min width 2560,
    keptHeight := min height 1280, outWidth := outputSize (min width 2560) S, outHeight := outputSize (min height 1280) S,
    slot := some k, state := .filling, meanGrey := 0, blackCount := 0, blackRatio := 0, codedBytes := 0,
    attempts := 0, finalK := 0, finalL := 0,
    flags := flagIf (clamped != dpi) flagResClamped |||
      flagIf (decide (2560 < width) || decide (1280 < height)) flagCropped |||
      flagIf (decide (clamped ≤ outDpi)) flagNotReduced,
    disposition := none }

/-- A face of good geometry takes the lowest FREE slot (R33, R34, R49). -/
theorem createFace_takes {s : State} {st : Stream} {ix : ItemIx} {r : ItemRecord} {side : Side} {dpi width height : Nat} {k : Slot}
    (found : s.stk.items[ix] = some r) (good : ¬ (width < 64 ∨ 4096 < width ∨ height < 32)) (lowest : lowestFreeSlot s.fmc = some k) :
    createFace st ix r side dpi width height s = evalPacing (setContext st
      { s.stk.contexts[st] with state := .face, face := some r.faces.length, rows := 0 }
      (putItem ix { r with faces := r.faces ++ [filledFace side dpi width height r.profile.outDpi k] }
        (setSlot k .filling { s with scu := s.scu.set k (some (bindContext (max 100 (min 400 dpi)) (min width 2560)
          (min height 1280) r.profile.outDpi r.profile.toneSlot)) }))) := by
  rw [createFace, if_neg good]
  simp only [lowest]
  rw [appendFace_eq _ _ _ _ (by exact found), filledFace, ← filledFace_flags, ← clampedDpi_eq]
  rfl

/-- FACE_OPEN of a face that takes a slot, in O36's words (R33, R34, R49, R62). -/
theorem faceOpen_takes (s : State) (st : Stream) (rec : Carried) (ix : ItemIx) (r : ItemRecord) (k : Slot)
    (receiving : s.ilu.recordOpen = true) (operating : s.flm.part = .operating) (own : (s.stk.map[st]).role = .own)
    (state : (s.stk.contexts[st]).state = .item) (item : (s.stk.contexts[st]).item = some ix) (found : s.stk.items[ix] = some r)
    (check : checkOk rec = true) (length : rec.payload.length = 7) (sided : param rec.payload 0 1 ≤ 1) :
    let side : Side := if param rec.payload 0 1 = 0 then .front else .back
    let dpi := param rec.payload 1 2
    let width := param rec.payload 3 2
    let height := param rec.payload 5 2
    r.faces.length < r.declared → (∀ f ∈ r.faces, f.side ≠ side) → 64 ≤ width → width ≤ 4096 → 32 ≤ height →
    s.fmc.slots[k] = .free → (∀ j < k, s.fmc.slots[j] ≠ .free) →
    let clamped := max 100 (min 400 dpi)
    let S := scaleStep clamped r.profile.outDpi
    let keptWidth := min width 2560
    let keptHeight := min height 1280
    let free := s.fmc.slots.count .free - 1
    exec (.faceOpen st rec none) s = .next
      { s with
        ilu := { s.ilu with recordOpen := false }
        stk := { s.stk with
          items := s.stk.items.set ix (some { r with faces := r.faces ++
            [{ side := side, captureDpi := clamped, declWidth := width, declHeight := height, keptWidth := keptWidth,
               keptHeight := keptHeight, outWidth := outputSize keptWidth S, outHeight := outputSize keptHeight S,
               slot := some k, state := .filling, meanGrey := 0, blackCount := 0, blackRatio := 0, codedBytes := 0,
               attempts := 0, finalK := 0, finalL := 0,
               flags := flagIf (clamped != dpi) flagResClamped |||
                 flagIf (decide (2560 < width) || decide (1280 < height)) flagCropped |||
                 flagIf (decide (clamped ≤ r.profile.outDpi)) flagNotReduced,
               disposition := none }] })
          contexts := s.stk.contexts.set st
            { state := .face, item := some ix, face := some r.faces.length, rows := 0, timer := some r.profile.stallTimeout } }
        scu := s.scu.set k (some
          { step := S, outWidth := outputSize keptWidth S, outHeight := outputSize keptHeight S, keptWidth := keptWidth,
            keptHeight := keptHeight, toneSlot := r.profile.toneSlot, rowsTaken := 0, lineRow := 0,
            line := List.replicate (outputSize keptWidth S) 0, lastRow := none, greySum := 0, waiting := [],
            inputEnded := false })
        fmc := { s.fmc with
                 slots := s.fmc.slots.set k .filling
                 pacing := if s.fmc.pacing then decide (free < s.fmc.mark + 4) else decide (free ≤ s.fmc.mark) } } := by
  intro side dpi width height few others wide narrow high freeSlot lowest clamped S keptWidth keptHeight free
  have opens := exec_faceOpen_open ⟨receiving, operating, own, length ▸ by decide⟩ ⟨.inl state, item⟩ check length sided
  rw [faceOpenTaken_inItem (s := endReceiving s) _ _ _ _ (by exact found) (by exact state), if_neg (by
    rw [isExtraFace_iff]
    rintro (many | ⟨f, mem, same⟩)
    · omega
    · exact others f mem same)] at opens
  change exec (.faceOpen st rec none) s = .next (createFace st ix r side dpi width height (setContext st
    { s.stk.contexts[st] with timer := some r.profile.stallTimeout } (endReceiving s))) at opens
  rw [createFace_takes (by exact found) (by omega) (lowestFreeSlot_eq (by exact freeSlot) (by exact lowest)), setContext_contexts,
    evalPacing, if_pos (by exact operating)] at opens
  refine opens.trans (congrArg _ ?_)
  simp only [setContext, putItem, setSlot, Vector.set_set, freeSlots, endReceiving_fmc, count_free_takes freeSlot, item]
  rfl

/-- Settles O36: the face that takes a slot, and the open face completed short before. -/
theorem faceOpenTakesSlot : Obligations.FaceOpenTakesSlot := by
  refine ⟨fun s st rec ix r k receiving operating own state item found check length sided =>
    faceOpen_takes s st rec ix r k receiving operating own state item found check length sided, ?_⟩
  intro s st raw ix r n f k c receiving operating own state item face found placed slot bound check length sided
  let u : State := setContext st { s.stk.contexts[st] with state := .item, rows := f.keptHeight }
    (faceShort ix r n f k c (s.stk.contexts[st]).rows s)
  change exec (.faceOpen st raw none) s = exec (.faceOpen st raw none) u
  have recorded : u.stk.items[ix] = some { r with faces := r.faces.set n { f with flags := f.flags ||| flagShort } } :=
    Vector.getElem_set_self _
  have context : u.stk.contexts[st] = { s.stk.contexts[st] with state := .item, rows := f.keptHeight } :=
    setContext_contexts _ _ _
  have restarted : restartTimer st ix (endReceiving u) = setContext st
      { u.stk.contexts[st] with timer := some r.profile.stallTimeout } (endReceiving u) :=
    restartTimer_eq (r := { r with faces := r.faces.set n { f with flags := f.flags ||| flagShort } }) (by exact recorded)
  have same : shortened st ix (restartTimer st ix (endReceiving s)) = shortened st ix (restartTimer st ix (endReceiving u)) := by
    rw [shortened_restarted (s := endReceiving s) ⟨state, item, face, found, placed, slot, bound⟩, restarted,
      shortened_inItem (by rw [setContext_contexts, context]; simp), context]
    exact (setContext_setContext st _ _ (faceShort ix r n f k c (s.stk.contexts[st]).rows (endReceiving s))).symm
  rw [exec_faceOpen_open ⟨receiving, operating, own, length ▸ by decide⟩ ⟨.inr state, item⟩ check length sided,
    exec_faceOpen_open (s := u) (ix := ix) ⟨receiving, operating, own, length ▸ by decide⟩
      ⟨.inl (by rw [context]), by rw [context]; exact item⟩ check length sided,
    faceOpenTaken_eq, faceOpenTaken_eq, same]

/-! ## STRIP -/

theorem exec_strip_open {s : State} {st : Stream} {raw : Carried} {ix : ItemIx} (h : Owned s st raw) (openItem : hasOpenItem s st ix) :
    exec (.strip st raw none) s = .next (stripTaken st raw ix (restartTimer st ix (endReceiving s))) := by
  rw [exec_strip_own h, withOpenItem_handles _ (by exact openItem) (by simp) (by simp)]

theorem stripTaken_face {s : State} {st : Stream} {ix : ItemIx} {r : ItemRecord} {n : Nat} {f : FaceRecord} (raw : Carried)
    (face : (s.stk.contexts[st]).face = some n) (found : s.stk.items[ix] = some r) (placed : r.faces[n]? = some f) :
    stripTaken st raw ix s =
      if (s.stk.contexts[st]).state = .face then stripInFace st ix n f raw s else stripInItem st ix n f raw s := by
  simp only [stripTaken, face, faceAt_eq found, placed]

/-- Rows handed to a slot, where there is one. -/
def handTo (slot : Option Slot) (rows : List InputRow) (ended : Bool) (s : State) : State :=
  match slot with
  | some k => handRows k rows ended s
  | none => s

theorem handTo_some {slot : Option Slot} {k : Slot} (held : slot = some k) (rows : List InputRow) (ended : Bool) (s : State) :
    handTo slot rows ended s = handRows k rows ended s := by rw [held]; rfl

theorem stripInFace_eq {s : State} {st : Stream} {ix : ItemIx} {r : ItemRecord} {n : Nat} {f : FaceRecord} {k : Slot} {c : ScaleCtx}
    (raw : Carried) (found : s.stk.items[ix] = some r) (placed : r.faces[n]? = some f) (slot : f.slot = some k)
    (bound : s.scu[k] = some c) :
    let rows := stripRows raw f.declWidth f.keptWidth
    let before := (s.stk.contexts[st]).rows
    let complete := f.keptHeight ≤ before + rows.1.length
    stripInFace st ix n f raw s = setContext st
      { s.stk.contexts[st] with rows := before + rows.1.length, state := if complete then .item else .face }
      { putItem ix { r with faces := r.faces.set n { f with
          flags := f.flags ||| (flagIf (!rows.2) flagDataLoss ||| flagIf (excessRows f before rows.1.length) flagExcessRows) } } s with
        scu := s.scu.set k (some { c with
          waiting := c.waiting ++ rows.1.take (f.keptHeight - before)
          inputEnded := c.inputEnded || decide complete }) } := by
  intro rows before complete
  have unfolded : stripInFace st ix n f raw s = setContext st
      { s.stk.contexts[st] with rows := before + rows.1.length, state := if decide complete then .item else .face }
      (handTo f.slot (rows.1.take (f.keptHeight - before)) (decide complete) (modFace ix n (fun g => g.setFlags
        (flagIf (!rows.2) flagDataLoss ||| flagIf (excessRows f before rows.1.length) flagExcessRows)) s)) := rfl
  rw [unfolded, handTo_some slot, handRows_eq _ _ (by exact bound), modFace_eq _ found placed]
  simp only [decide_eq_true_eq]
  rfl

/-- A STRIP for the face being filled: the rows it contributes are handed over up to the kept height (R36 to R38). -/
theorem strip_filling {s : State} {st : Stream} {raw : Carried} {ix : ItemIx} {r : ItemRecord} {n : Nat} {f : FaceRecord} {k : Slot}
    {c : ScaleCtx} (h : Owned s st raw) (filling : Filling s st ix r n f k c) :
    let rows := stripRows raw f.declWidth f.keptWidth
    let before := (s.stk.contexts[st]).rows
    let complete := f.keptHeight ≤ before + rows.1.length
    exec (.strip st raw none) s = .next
      { s with
        ilu := { s.ilu with recordOpen := false }
        stk := { s.stk with
          items := s.stk.items.set ix (some { r with faces := r.faces.set n { f with
            flags := f.flags ||| (flagIf (!rows.2) flagDataLoss ||| flagIf (excessRows f before rows.1.length) flagExcessRows) } })
          contexts := s.stk.contexts.set st
            { s.stk.contexts[st] with
              state := if complete then .item else .face, rows := before + rows.1.length, timer := some r.profile.stallTimeout } }
        scu := s.scu.set k (some { c with
          waiting := c.waiting ++ rows.1.take (f.keptHeight - before)
          inputEnded := c.inputEnded || decide complete }) } := by
  intro rows before complete
  obtain ⟨state, item, face, found, placed, slot, bound⟩ := filling
  let u : State := setContext st { s.stk.contexts[st] with timer := some r.profile.stallTimeout } (endReceiving s)
  have restarted : restartTimer st ix (endReceiving s) = u := restartTimer_eq (by exact found)
  have context : u.stk.contexts[st] = { s.stk.contexts[st] with timer := some r.profile.stallTimeout } := setContext_contexts _ _ _
  rw [exec_strip_open h ⟨.inr state, item⟩, restarted, stripTaken_face (s := u) raw (by rw [context]; exact face) (by exact found)
    placed, if_pos (by rw [context]; exact state), stripInFace_eq (s := u) raw found placed slot bound, context]
  refine congrArg _ ?_
  simp only [setContext, putItem, u, Vector.set_set]
  rfl

/-! ### The rows of a STRIP -/

theorem stripRows_sound {raw : Carried} {declWidth : Nat} (keptWidth : Nat) {n : Byte} {samples : List Byte} (check : checkOk raw = true)
    (payload : raw.payload = n :: samples) (one : 1 ≤ n.toNat) (most : n.toNat ≤ 16) (length : samples.length = n.toNat * declWidth) :
    stripRows raw declWidth keptWidth = (stripSamples declWidth keptWidth n.toNat samples, true) := by
  simp [stripRows, check, payload, length, Nat.add_comm, show n.toNat ≠ 0 by omega, Nat.not_lt.mpr most]

theorem stripRows_unsound {raw : Carried} {declWidth : Nat} (keptWidth : Nat) (unsound : ¬ soundStrip raw declWidth) :
    stripRows raw declWidth keptWidth = (List.replicate (stripCount raw declWidth) .white, false) := by
  unfold stripRows stripCount
  cases check : checkOk raw with
  | false => rfl
  | true =>
    cases payload : raw.payload with
    | nil => rfl
    | cons n samples =>
      simp only [Bool.not_true, Bool.false_eq_true, if_false, if_true]
      by_cases none : n.toNat = 0
      · simp [none]
      by_cases many : 16 < n.toNat
      · simp [none, many, Nat.min_eq_right (Nat.le_of_lt many)]
      have odd : (n :: samples).length ≠ 1 + n.toNat * declWidth := fun fit =>
        unsound ⟨check, n, samples, payload, by omega, by omega, by simpa [Nat.add_comm] using fit⟩
      rw [if_neg none, if_neg many, if_pos odd, Nat.min_eq_left (by omega)]

theorem stripRows_length (raw : Carried) (declWidth keptWidth : Nat) :
    (stripRows raw declWidth keptWidth).1.length = stripCount raw declWidth := by
  by_cases sound : soundStrip raw declWidth
  · obtain ⟨check, n, samples, payload, one, most, length⟩ := sound
    rw [stripRows_sound keptWidth check payload one most length]
    simp [stripCount, check, payload, stripSamples, Nat.min_eq_left most]
  · rw [stripRows_unsound keptWidth sound, List.length_replicate]

theorem flagIf_excessRows (f : FaceRecord) (before rows : Nat) :
    flagIf (excessRows f before rows) flagExcessRows = if 0 < rows ∧ f.declHeight < before + rows then flagExcessRows else 0 := by
  by_cases excess : 0 < rows ∧ f.declHeight < before + rows
  · rw [if_pos excess, excessRows, decide_eq_true excess]; rfl
  · rw [if_neg excess, excessRows, decide_eq_false excess]; rfl

/-- A STRIP in ITEM for a face that is not refused: its rows are counted (R39). -/
theorem stripInItem_eq {s : State} {st : Stream} {ix : ItemIx} {r : ItemRecord} {n : Nat} {f : FaceRecord} (raw : Carried)
    (found : s.stk.items[ix] = some r) (placed : r.faces[n]? = some f) (geometry : f.disposition ≠ some .refusedGeometry)
    (noSlot : f.disposition ≠ some .refusedNoSlot) :
    let rows := stripCount raw f.declWidth
    let before := (s.stk.contexts[st]).rows
    stripInItem st ix n f raw s = setContext st { s.stk.contexts[st] with rows := before + rows }
      (putItem ix { r with faces := r.faces.set n { f with
        flags := f.flags ||| (if 0 < rows ∧ f.declHeight < before + rows then flagExcessRows else 0) } } s) := by
  intro rows before
  rw [stripInItem, if_neg (by simp [geometry, noSlot])]
  simp only [stripRows_length, flagIf_excessRows, modFace_eq _ found placed]
  rfl

/-- Settles O38: each strip by the rows it contributes. -/
theorem stripHandsRows : Obligations.StripHandsRows := by
  refine ⟨?_, ?_⟩
  · intro s st rec ix r n f k c rows samples receiving operating own state item face found placed slot bound check payload one most
      length short before complete filled
    have count : (BitVec.ofNat 8 rows).toNat = rows := by simp; omega
    have sound := stripRows_sound f.keptWidth check payload (by omega) (by omega) (by rw [count]; exact length)
    have handed := strip_filling ⟨receiving, operating, own, short⟩ ⟨state, item, face, found, placed, slot, bound⟩
    have excess : excessRows f before rows = decide (f.declHeight < before + rows) := by
      simp only [excessRows, show 0 < rows by omega, true_and]
    have flags (x : BitVec 32) : x ||| (flagIf (!true) flagDataLoss ||| flagIf (excessRows f before rows) flagExcessRows) =
        x ||| flagIf (decide (f.declHeight < before + rows)) flagExcessRows := by
      rw [excess, show flagIf (!true) flagDataLoss = 0#32 from rfl, BitVec.zero_or]
    have handedOver : (stripSamples f.declWidth f.keptWidth rows samples).length = rows := by simp [stripSamples]
    simp only [sound, count, handedOver] at handed
    rw [flags] at handed
    exact handed
  · intro s st raw ix r receiving operating own item found short before context
    have owned : Owned s st raw := ⟨receiving, operating, own, short⟩
    let u : State := setContext st context (endReceiving s)
    have restarted : restartTimer st ix (endReceiving s) = u := restartTimer_eq (by exact found)
    have current : u.stk.contexts[st] = context := setContext_contexts _ _ _
    refine ⟨fun n f k c state face placed slot bound unsound => ?_, fun state => ⟨fun dropped => ?_, fun n f face placed geometry noSlot => ?_⟩⟩
    · intro rows complete marked
      have handed := strip_filling owned ⟨state, item, face, found, placed, slot, bound⟩
      have flags (x : BitVec 32) : x ||| (flagIf (!false) flagDataLoss ||| flagIf (excessRows f before rows) flagExcessRows) =
          x ||| flagDataLoss ||| (if 0 < rows ∧ f.declHeight < before + rows then flagExcessRows else 0) := by
        rw [flagIf_excessRows, ← BitVec.or_assoc]
        rfl
      simp only [stripRows_unsound f.keptWidth unsound, List.length_replicate, List.take_replicate] at handed
      rw [flags, Nat.min_comm] at handed
      exact handed
    · have ignored : stripTaken st raw ix u = u := by
        rcases dropped with none | ⟨n, f, face, placed, refused⟩
        · simp only [stripTaken, current, context, none]
        · rw [stripTaken_face (s := u) raw (by rw [current]; exact face) (by exact found) placed,
            if_neg (by rw [current, state]; decide), stripInItem, if_pos refused]
      rw [exec_strip_open owned ⟨.inl state, item⟩, restarted, ignored]
      rfl
    · rw [exec_strip_open owned ⟨.inl state, item⟩, restarted, stripTaken_face (s := u) raw (by rw [current]; exact face)
        (by exact found) placed, if_neg (by rw [current, state]; decide), stripInItem_eq (s := u) raw (by exact found) placed geometry noSlot,
        current, putItem_setContext, setContext_setContext]
      rfl

end Sys2Proof.Proofs
end

section
/-! The Conversion Engine stopped; items aborted (R41, R53, R95). -/

namespace Sys2Proof.Proofs
open Sys2Proof.Machine Sys2Proof.Safety Sys2Proof.Laws

/-! ## The engine stopped -/

theorem pushNotices_bypass (ns : List Notice) {s : State} (h : s.flm.part = .bypass) : pushNotices ns s = s := by
  induction ns with
  | nil => rfl
  | cons n ns ih => rw [pushNotices, List.foldl_cons, ← pushNotices, pushNotice_bypass h, ih]

/-- In QUIESCING the last item gone grants every owed tag (R185). -/
theorem checkQuiesced_eq (s : State) :
    checkQuiesced s = { s with
      dru := if s.dru.quiesce = .quiescing ∧ ∀ j : ItemIx, s.stk.items[j] = none then
          if s.flm.part = .bypass then { s.dru with quiesce := .quiesced, owed := [] }
          else noticedAll (grantNotices .done s.dru.owed) { s.dru with quiesce := .quiesced, owed := [] }
        else s.dru } := by
  unfold checkQuiesced
  by_cases empty : s.dru.quiesce = .quiescing ∧ ∀ j : ItemIx, s.stk.items[j] = none
  · rw [if_pos ⟨empty.1, (freeItems_eq_iff _).mpr empty.2⟩, if_pos empty]
    by_cases bypass : s.flm.part = .bypass
    · rw [if_pos bypass, pushNotices_bypass _ (by exact bypass)]
    · rw [if_neg bypass, pushNotices_eq _ (by exact bypass)]
  · rw [if_neg fun h => empty ⟨h.1, (freeItems_eq_iff _).mp h.2⟩, if_neg empty]

/-- An item record freed where it may be (R26, R148). -/
theorem tryFree_eq {ix : ItemIx} {r : ItemRecord} {s : State} (found : s.stk.items[ix] = some r) :
    tryFree ix s =
      if QueueEntry.item ix true ∈ s.rel.queues[r.stream] ∧ ∀ f ∈ r.faces, f.slot = none then
        checkQuiesced
          { s with
            stk := { s.stk with items := s.stk.items.set ix none }
            rel := { s.rel with
              queues := s.rel.queues.set r.stream
                (s.rel.queues[r.stream].filter (fun e => decide (e ≠ QueueEntry.item ix true))) } }
      else s := by
  have same : (isReleased s r.stream ix = true ∧ r.faces.all (fun f => f.slot.isNone) = true) ↔
      (QueueEntry.item ix true ∈ s.rel.queues[r.stream] ∧ ∀ f ∈ r.faces, f.slot = none) := by
    simp only [isReleased, List.contains_iff_mem, List.all_eq_true, Option.isNone_iff_eq_none]
  have spent : (fun e : QueueEntry => e != .item ix true) = fun e => decide (e ≠ QueueEntry.item ix true) := by
    funext e
    simp [bne, BEq.beq]
  simp only [tryFree, itemAt, found, same, spent]

theorem emptied_iff (items : Vector (Option ItemRecord) 32) (ix : ItemIx) :
    (∀ j : ItemIx, (items.set ix none)[j] = none) ↔ ∀ j : ItemIx, j ≠ ix → items[j] = none := by
  have other {j : ItemIx} (ne : j ≠ ix) : (items.set ix none)[j] = items[j] :=
    Vector.getElem_set_ne _ _ fun e => ne (Fin.ext e).symm
  refine ⟨fun all j ne => other ne ▸ all j, fun all j => ?_⟩
  by_cases same : j = ix
  · subst same; exact Vector.getElem_set_self _
  · rw [other same]; exact all j same

/-- The engine stopped: what engineStopped says, and the next face taken (R52, R95). -/
theorem cnvStop_eq {w : Work} {r : ItemRecord} {s : State} (found : s.stk.items[w.item] = some r) :
    cnvStop none w s = cnvTake none (engineStopped w r s) := by
  let left := { r with faces := r.faces.modify w.face (fun f => { f with slot := none }) }
  let stopped : State := { wipeLater w.slot s with cnv := none }
  have marked : modFace w.item w.face (fun f => { f with slot := none }) (toScrub w.slot s) =
      putItem w.item left (wipeLater w.slot s) := modItem_eq _ (by exact found)
  have frees : tryFree w.item (putItem w.item left stopped) = engineStopped w r s := by
    rw [tryFree_eq (putItem_items _ _ _), engineStopped]
    by_cases spent : QueueEntry.item w.item true ∈ s.rel.queues[r.stream] ∧ ∀ f ∈ left.faces, f.slot = none
    · refine (if_pos spent).trans (Eq.trans ?_ (if_pos spent).symm)
      rw [checkQuiesced_eq]
      have emptied : (∀ j : ItemIx, ((putItem w.item left stopped).stk.items.set w.item none)[j] = none) ↔
          ∀ j : ItemIx, j ≠ w.item → s.stk.items[j] = none := by
        rw [show (putItem w.item left stopped).stk.items.set w.item none = s.stk.items.set w.item none from Vector.set_set ..]
        exact emptied_iff _ _
      simp only [emptied]
      simp only [putItem, Vector.set_set]
      rfl
    · exact (if_neg spent).trans (if_neg spent).symm
  rw [cnvStop, marked]
  exact congrArg (cnvTake none) frees

/-! ## The faces of an aborted item handed off -/

/-- The engine's face is among these, and is being converted. -/
def isConverting (faces : List FaceRecord) (w : Work) : Bool := (faces[w.face]?).any (fun f => decide (f.state = .converting))

/-- The slot states once these slots wait to be wiped. -/
def scrubbed (gone : List Slot) (slots : Vector SlotState 48) : Vector SlotState 48 :=
  Vector.ofFn (fun k : Fin 48 => if k ∈ gone then .scrubbing else slots[k])

/-- The scaling contexts without those of these faces, being filled. -/
def unbound (faces : List FaceRecord) (scu : Vector (Option ScaleCtx) 48) : Vector (Option ScaleCtx) 48 :=
  Vector.ofFn (fun k : Fin 48 => if ∃ f ∈ faces, f.state = .filling ∧ f.slot = some k then none else scu[k])

/-- The ready queue without the slots of these faces. -/
def unready (faces : List FaceRecord) (ready : List Slot) : List Slot :=
  ready.filter (fun k => ¬ ∃ f ∈ faces, f.state = .ready ∧ f.slot = some k)

/-- The engine's work state, marked where its face is among these. -/
def marked (ix : ItemIx) (faces : List FaceRecord) (cnv : Option Work) : Option Work :=
  cnv.map (fun w => if w.item = ix ∧ isConverting faces w = true then { w with abandonMark := true } else w)

/-- The part with the first faces of an aborted item handed off, and the others as they stood (R41, R53, R79, R94). -/
def handedTo (ix : ItemIx) (r : ItemRecord) (s : State) (done rest : List FaceRecord) : State :=
  { putItem ix { r with faces := done.map (aborted s) ++ rest } s with
    scu := unbound done s.scu
    fmc := { s.fmc with
      slots := scrubbed (done.filterMap (handedOff s)) s.fmc.slots
      scrubOrder := s.fmc.scrubOrder ++ done.filterMap (handedOff s)
      ready := unready done s.fmc.ready }
    cnv := marked ix done s.cnv }

theorem scrubbed_append (gone : List Slot) (k : Slot) (slots : Vector SlotState 48) :
    scrubbed (gone ++ [k]) slots = (scrubbed gone slots).set k .scrubbing := by
  ext i hi
  by_cases same : k.val = i
  · subst same; simp [scrubbed]
  · rw [Vector.getElem_set_ne _ _ same]
    have ne : (⟨i, hi⟩ : Fin 48) ≠ k := fun e => same (congrArg Fin.val e).symm
    simp [scrubbed, ne]

theorem unbound_filling {faces : List FaceRecord} {f : FaceRecord} {k : Slot} (filling : f.state = .filling) (slot : f.slot = some k)
    (scu : Vector (Option ScaleCtx) 48) : unbound (faces ++ [f]) scu = (unbound faces scu).set k none := by
  ext1 i hi
  by_cases same : k.val = i
  · subst same; simp [unbound, filling, slot]
  · rw [Vector.getElem_set_ne _ _ same]
    have ne : k ≠ (⟨i, hi⟩ : Fin 48) := fun e => same (congrArg Fin.val e)
    simp [unbound, slot, ne]

theorem unbound_other {faces : List FaceRecord} {f : FaceRecord} (other : f.state ≠ .filling ∨ f.slot = none)
    (scu : Vector (Option ScaleCtx) 48) : unbound (faces ++ [f]) scu = unbound faces scu := by
  rcases other with other | other <;> simp [unbound, other]

theorem unready_ready {faces : List FaceRecord} {f : FaceRecord} {k : Slot} {ready : List Slot} (waiting : f.state = .ready)
    (slot : f.slot = some k) (nodup : ready.Nodup) : unready (faces ++ [f]) ready = (unready faces ready).erase k := by
  unfold unready
  rw [List.Nodup.erase_eq_filter (nodup.filter _), List.filter_filter]
  congr 1
  funext j
  by_cases same : j = k
  · subst same; simp [waiting, slot]
  · simp [waiting, slot, same, Ne.symm same]

theorem unready_other {faces : List FaceRecord} {f : FaceRecord} (other : f.state ≠ .ready ∨ f.slot = none) (ready : List Slot) :
    unready (faces ++ [f]) ready = unready faces ready := by
  rcases other with other | other <;> simp [unready, other]

theorem isConverting_append (faces : List FaceRecord) (f : FaceRecord) (w : Work) :
    isConverting (faces ++ [f]) w = (isConverting faces w || (decide (w.face = faces.length) && decide (f.state = .converting))) := by
  unfold isConverting
  rcases Nat.lt_trichotomy w.face faces.length with before | here | after
  · rw [List.getElem?_append_left before]
    simp [Nat.ne_of_lt before]
  · simp [here]
  · rw [List.getElem?_eq_none (by simp; omega), List.getElem?_eq_none (by omega)]
    simp [Nat.ne_of_gt after]

theorem marked_converting {ix : ItemIx} {faces : List FaceRecord} {f : FaceRecord} (converting : f.state = .converting)
    (cnv : Option Work) : marked ix (faces ++ [f]) cnv = (marked ix faces cnv).map (fun w =>
      if w.item = ix ∧ w.face = faces.length then { w with abandonMark := true } else w) := by
  cases cnv with
  | none => rfl
  | some w =>
    simp only [marked, Option.map_some, isConverting_append, converting]
    by_cases here : w.item = ix
    · by_cases last : w.face = faces.length <;> cases isConverting faces w <;> simp [here, last]
    · simp [here]

theorem marked_other {ix : ItemIx} {faces : List FaceRecord} {f : FaceRecord} (other : f.state ≠ .converting) (cnv : Option Work) :
    marked ix (faces ++ [f]) cnv = marked ix faces cnv := by
  cases cnv with
  | none => rfl
  | some w => simp [marked, isConverting_append, other]

theorem handedTo_items (ix : ItemIx) (r : ItemRecord) (s : State) (done rest : List FaceRecord) :
    (handedTo ix r s done rest).stk.items[ix] = some { r with faces := done.map (aborted s) ++ rest } :=
  putItem_items ix { r with faces := done.map (aborted s) ++ rest } s

/-- The record of the next face changes as the abort says. -/
theorem handedTo_modFace {ix : ItemIx} {r : ItemRecord} {s : State} {done rest : List FaceRecord} {f : FaceRecord}
    (g : FaceRecord → FaceRecord) (same : g f = aborted s f) :
    modFace ix done.length g (handedTo ix r s done (f :: rest)) =
      { handedTo ix r s done (f :: rest) with
        stk := (putItem ix { r with faces := (done ++ [f]).map (aborted s) ++ rest } s).stk } := by
  rw [modFace_eq (s := handedTo ix r s done (f :: rest)) (r := { r with faces := done.map (aborted s) ++ f :: rest }) (f := f) _
    (handedTo_items ix r s done (f :: rest)) (by simp), same]
  simp only [putItem, handedTo, Vector.set_set]
  simp

theorem handedOff_slot {s : State} {f : FaceRecord} {k : Slot} (h : handedOff s f = some k) : f.slot = some k := by
  unfold handedOff at h
  split at h
  · exact (Option.filter_eq_some_iff.mp h).1
  · cases h
  · exact h

/-- A slot that one face holds alone is not among those the faces before it gave up. -/
theorem not_handedOff {s : State} {done rest : List FaceRecord} {f : FaceRecord} {k : Slot} (slot : f.slot = some k)
    (alone : ((done ++ f :: rest).filterMap FaceRecord.slot).Nodup) : k ∉ done.filterMap (handedOff s) := by
  intro gone
  obtain ⟨g, mem, taken⟩ := List.mem_filterMap.mp gone
  rw [List.filterMap_append, List.filterMap_cons_some slot, List.nodup_append] at alone
  exact alone.2.2 k (List.mem_filterMap.mpr ⟨g, mem, handedOff_slot taken⟩) k (by simp) rfl

/-! ### What the abort does to one face, case by case -/

section
variable {ix : ItemIx} {n : Nat} {s : State} {f : FaceRecord} (placed : faceAt s ix n = some f)
include placed

theorem abortFace_filling {k : Slot} (state : f.state = .filling) (slot : f.slot = some k) :
    abortFace ix s n = toScrub k { modFace ix n (fun f => f.abandon none) s with scu := s.scu.set k none } := by
  simp only [abortFace, placed, state, slot]

theorem abortFace_ready {k : Slot} (state : f.state = .ready) (slot : f.slot = some k) :
    abortFace ix s n = toScrub k
      { modFace ix n (fun f => f.abandon none) s with fmc := { s.fmc with ready := s.fmc.ready.erase k } } := by
  simp only [abortFace, placed, state, slot]
  rfl

theorem abortFace_converting (state : f.state = .converting) :
    abortFace ix s n = { modFace ix n (fun g => g.abandon f.slot) s with
      cnv := s.cnv.map (fun w => if w.item = ix ∧ w.face = n then { w with abandonMark := true } else w) } := by
  simp only [abortFace, placed, state]
  rfl

theorem abortFace_final {k : Slot} (state : f.state = .final) (slot : f.slot = some k) :
    abortFace ix s n =
      if s.fmc.slots[k] = .coded then toScrub k (modFace ix n (fun f => { f with slot := none }) s) else s := by
  simp only [abortFace, placed, state, slot]

theorem abortFace_settled (state : f.state = .final) (slot : f.slot = none) : abortFace ix s n = s := by
  simp only [abortFace, placed, state, slot]

theorem abortFace_slotless (state : f.state = .filling ∨ f.state = .ready) (slot : f.slot = none) :
    abortFace ix s n = modFace ix n (fun f => f.abandon none) s := by
  rcases state with state | state <;> simp only [abortFace, placed, state, slot]

end

theorem aborted_final {s : State} {f : FaceRecord} (state : f.state = .final) :
    aborted s f = { f with slot := f.slot.filter (fun k => s.fmc.slots[k] ≠ .coded) } := by
  simp only [aborted, state]

theorem handedOff_final {s : State} {f : FaceRecord} (state : f.state = .final) :
    handedOff s f = f.slot.filter (fun k => s.fmc.slots[k] = .coded) := by
  simp only [handedOff, state]

/-- A settled face gives up a CODED slot, and no other (R53). -/
theorem final_gives {s : State} {f : FaceRecord} {k : Slot} (state : f.state = .final) (slot : f.slot = some k)
    (coded : s.fmc.slots[k] = .coded) : aborted s f = { f with slot := none } ∧ handedOff s f = some k := by
  rw [aborted_final state, handedOff_final state, slot]
  exact ⟨congrArg (fun x => { f with slot := x }) (if_neg fun keep => absurd coded (of_decide_eq_true keep)), if_pos (decide_eq_true coded)⟩

theorem final_keeps {s : State} {f : FaceRecord} (state : f.state = .final)
    (uncoded : ∀ k, f.slot = some k → s.fmc.slots[k] ≠ .coded) : aborted s f = f ∧ handedOff s f = none := by
  have kept : f.slot.filter (fun k => s.fmc.slots[k] ≠ .coded) = f.slot := by
    cases slot : f.slot with
    | none => rfl
    | some k => exact if_pos (decide_eq_true (uncoded k slot))
  have none : f.slot.filter (fun k => s.fmc.slots[k] = .coded) = none := by
    cases slot : f.slot with
    | none => rfl
    | some k => exact if_neg fun take => uncoded k slot (of_decide_eq_true take)
  rw [aborted_final state, handedOff_final state, kept, none]
  exact ⟨rfl, rfl⟩

/-- One more face handed off (R41, R53). -/
theorem abortFace_handedTo {ix : ItemIx} {r : ItemRecord} {s : State} {done rest : List FaceRecord} {f : FaceRecord}
    (alone : ((done ++ f :: rest).filterMap FaceRecord.slot).Nodup) (ready : s.fmc.ready.Nodup) :
    abortFace ix (handedTo ix r s done (f :: rest)) done.length = handedTo ix r s (done ++ [f]) rest := by
  have placed : faceAt (handedTo ix r s done (f :: rest)) ix done.length = some f := by
    rw [faceAt_eq (handedTo_items ix r s done (f :: rest))]
    simp
  have gone (k : Slot) (taken : handedOff s f = some k) :
      (done ++ [f]).filterMap (handedOff s) = done.filterMap (handedOff s) ++ [k] := by simp [taken]
  have stays (none : handedOff s f = none) : (done ++ [f]).filterMap (handedOff s) = done.filterMap (handedOff s) := by simp [none]
  cases state : f.state with
  | filling =>
    cases slot : f.slot with
    | some k =>
      rw [abortFace_filling placed state slot, handedTo_modFace _ (by simp [aborted, state, FaceRecord.abandon])]
      simp only [handedTo, toScrub]
      rw [gone k (by simp [handedOff, state, slot]), scrubbed_append, unbound_filling state slot,
        unready_other (.inl (by simp [state])), marked_other (by simp [state]), List.append_assoc]
      rfl
    | none =>
      rw [abortFace_slotless placed (.inl state) slot, handedTo_modFace _ (by simp [aborted, state, FaceRecord.abandon])]
      simp only [handedTo]
      rw [stays (by simp [handedOff, state, slot]), unbound_other (.inr slot), unready_other (.inr slot),
        marked_other (by simp [state])]
      rfl
  | ready =>
    cases slot : f.slot with
    | some k =>
      rw [abortFace_ready placed state slot, handedTo_modFace _ (by simp [aborted, state, FaceRecord.abandon])]
      simp only [handedTo, toScrub]
      rw [gone k (by simp [handedOff, state, slot]), scrubbed_append, unbound_other (.inl (by simp [state])),
        unready_ready state slot ready, marked_other (by simp [state]), List.append_assoc]
      rfl
    | none =>
      rw [abortFace_slotless placed (.inr state) slot, handedTo_modFace _ (by simp [aborted, state, FaceRecord.abandon])]
      simp only [handedTo]
      rw [stays (by simp [handedOff, state, slot]), unbound_other (.inr slot), unready_other (.inr slot),
        marked_other (by simp [state])]
      rfl
  | converting =>
    rw [abortFace_converting placed state, handedTo_modFace _ (by simp [aborted, state, FaceRecord.abandon])]
    simp only [handedTo]
    rw [stays (by simp [handedOff, state]), unbound_other (.inl (by simp [state])), unready_other (.inl (by simp [state])),
      marked_converting state]
    rfl
  | final =>
    have same (kept : aborted s f = f) (none : handedOff s f = none) :
        handedTo ix r s (done ++ [f]) rest = handedTo ix r s done (f :: rest) := by
      simp only [handedTo]
      rw [stays none, unbound_other (.inl (by simp [state])), unready_other (.inl (by simp [state])), marked_other (by simp [state]),
        List.map_append, List.append_assoc, List.map_singleton, kept]
      rfl
    cases slot : f.slot with
    | some k =>
      rw [abortFace_final placed state slot]
      have here : (handedTo ix r s done (f :: rest)).fmc.slots[k] = s.fmc.slots[k] :=
        (Vector.getElem_ofFn _).trans (if_neg (not_handedOff slot alone))
      rw [here]
      by_cases coded : s.fmc.slots[k] = .coded
      · obtain ⟨bare, taken⟩ := final_gives state slot coded
        rw [if_pos coded, handedTo_modFace _ bare.symm]
        simp only [handedTo, toScrub]
        rw [gone k taken, scrubbed_append, unbound_other (.inl (by simp [state])),
          unready_other (.inl (by simp [state])), marked_other (by simp [state]), List.append_assoc]
        rfl
      · obtain ⟨kept, none⟩ := final_keeps (s := s) state fun j held => by
          rwa [← Option.some.inj (slot.symm.trans held)]
        rw [if_neg coded, same kept none]
    | none =>
      obtain ⟨kept, none⟩ := final_keeps (s := s) state fun j held => absurd (slot.symm.trans held) (by simp)
      rw [abortFace_settled placed state slot, same kept none]

theorem handedTo_nil {ix : ItemIx} {r : ItemRecord} {s : State} (found : s.stk.items[ix] = some r) :
    handedTo ix r s [] r.faces = s := by
  have kept : s.stk.items.set ix (some r) = s.stk.items := by
    rw [← found]; exact Vector.set_getElem_self _
  have scu : unbound [] s.scu = s.scu := by ext1 i hi; simp [unbound]
  have slots : scrubbed [] s.fmc.slots = s.fmc.slots := by ext1 i hi; simp [scrubbed]
  have ready : unready [] s.fmc.ready = s.fmc.ready := by simp [unready]
  have cnv : marked ix [] s.cnv = s.cnv := by cases s.cnv <;> simp [marked, isConverting]
  simp only [handedTo, putItem, List.map_nil, List.nil_append, List.filterMap_nil, kept, scu, slots, ready, cnv, List.append_nil]

/-- All the faces handed off, in face-list order (R41, R53). -/
theorem abortFaces_handedTo {ix : ItemIx} {r : ItemRecord} {s : State} (ready : s.fmc.ready.Nodup) (done rest : List FaceRecord)
    (alone : ((done ++ rest).filterMap FaceRecord.slot).Nodup) :
    (List.range' done.length rest.length).foldl (abortFace ix) (handedTo ix r s done rest) =
      handedTo ix r s (done ++ rest) [] := by
  induction rest generalizing done with
  | nil => rw [List.append_nil]; rfl
  | cons f rest ih =>
    have next := ih (done ++ [f]) (by simpa using alone)
    rw [List.length_append, List.length_singleton, List.append_assoc, List.singleton_append] at next
    rw [List.length_cons, List.range'_succ, List.foldl_cons, abortFace_handedTo alone ready]
    exact next

/-- The part with an item aborted, before the pending role: its faces handed off, its record DECIDED, its stream without an item
(R41, R43). -/
def itemAborted (st : Stream) (ix : ItemIx) (r : ItemRecord) (x : CtxState) (o : ItemOutcome) (s : State) : State :=
  setContext st { s.stk.contexts[st] with state := x, item := none, face := none, timer := none }
    (putItem ix { r with state := .decided, outcome := some o, faces := r.faces.map (aborted s) } (handedTo ix r s r.faces []))

/-- The number of face records of an item, none where there is no item. -/
def faceCount (s : State) (ix : ItemIx) : Nat :=
  match itemAt s ix with
  | some r => r.faces.length
  | none => 0

theorem faceCount_eq {s : State} {ix : ItemIx} {r : ItemRecord} (found : s.stk.items[ix] = some r) :
    faceCount s ix = r.faces.length := by
  simp only [faceCount, itemAt, found]

/-- An item DECIDED and its stream without an item. -/
def abortDecided (st : Stream) (ix : ItemIx) (o : ItemOutcome) (x : CtxState) (s : State) : State :=
  let u := modItem ix (fun r => { r with state := .decided, outcome := some o }) s
  setContext st { u.stk.contexts[st] with state := x, item := none, face := none, timer := none } u

/-- An abort in its parts: the faces handed off in order, the item decided, then what follows (R41). -/
theorem abortItem_parts (st : Stream) (ix : ItemIx) (o : ItemOutcome) (x : CtxState) (parity : Option ParityRead) (s : State) :
    abortItem st ix o x parity s = relTry parity (stopIfSettling parity (applyPending st
      (abortDecided st ix o x ((List.range (faceCount s ix)).foldl (abortFace ix) s)))) := rfl

theorem abortItem_eq {st : Stream} {ix : ItemIx} {r : ItemRecord} {s : State} (x : CtxState) (o : ItemOutcome)
    (found : s.stk.items[ix] = some r) (alone : (r.faces.filterMap FaceRecord.slot).Nodup) (ready : s.fmc.ready.Nodup) :
    abortItem st ix o x none s = relTry none (stopIfSettling none (applyPending st (itemAborted st ix r x o s))) := by
  have handed : (List.range r.faces.length).foldl (abortFace ix) s = handedTo ix r s r.faces [] := by
    have all := abortFaces_handedTo (ix := ix) (r := r) ready [] r.faces alone
    rw [handedTo_nil found] at all
    rw [List.range_eq_range']
    exact all
  rw [abortItem_parts, faceCount_eq found, handed, abortDecided]
  simp only
  rw [modItem_eq _ (handedTo_items _ _ _ _ _), List.append_nil]
  rfl

/-! ### The stream context after an abort -/

theorem abortFace_contexts (ix : ItemIx) (s : State) (n : Nat) : (abortFace ix s n).stk.contexts = s.stk.contexts := by
  unfold abortFace
  split
  · rfl
  · split
    all_goals try rfl
    split <;> rfl

theorem abortFaces_contexts (ix : ItemIx) (ns : List Nat) (s : State) :
    (ns.foldl (abortFace ix) s).stk.contexts = s.stk.contexts := by
  induction ns generalizing s with
  | nil => rfl
  | cons n ns ih => rw [List.foldl_cons, ih, abortFace_contexts]

theorem checkQuiesced_contexts (s : State) : (checkQuiesced s).stk.contexts = s.stk.contexts := by
  rw [checkQuiesced_eq]

theorem tryFree_contexts (ix : ItemIx) (s : State) : (tryFree ix s).stk.contexts = s.stk.contexts := by
  unfold tryFree
  split
  · rfl
  · split
    · exact checkQuiesced_contexts _
    · rfl

theorem cnvTake_contexts (s : State) : (cnvTake none s).stk.contexts = s.stk.contexts := by
  rcases cnvTake_none_cases s with same | ⟨k, rest, ix, n, r, f, -, -, -, -, -, taken⟩
  · rw [same]
  · rw [taken]; rfl

theorem stopIfSettling_contexts (s : State) : (stopIfSettling none s).stk.contexts = s.stk.contexts := by
  have stops (w : Work) : (cnvStop none w s).stk.contexts = s.stk.contexts := by
    rw [cnvStop, cnvTake_contexts, tryFree_contexts]
    rfl
  unfold stopIfSettling
  split
  · rfl
  · split
    · split
      · exact stops _
      · rfl
    · split
      · exact stops _
      · rfl
    all_goals rfl

/-- Whatever the faces, the stream is left without an item (R41, R43). -/
theorem abortItem_contexts (st : Stream) (ix : ItemIx) (o : ItemOutcome) (x : CtxState) (s : State) :
    (abortItem st ix o x none s).stk.contexts =
      s.stk.contexts.set st { s.stk.contexts[st] with state := x, item := none, face := none, timer := none } := by
  obtain ⟨items, position, release, same⟩ := relTry_none_frame (stopIfSettling none (applyPending st
      (abortDecided st ix o x ((List.range (faceCount s ix)).foldl (abortFace ix) s))))
  have kept := abortFaces_contexts ix (List.range (faceCount s ix)) s
  rw [abortItem_parts, same]
  refine (stopIfSettling_contexts _).trans ((applyPending_contexts _ _).trans ?_)
  simp only [abortDecided, setContext, modItem, kept]

/-! ### The two commands that abort an item -/

theorem exec_itemCancel_open {s : State} {st : Stream} {raw : Carried} {ix : ItemIx} (h : Owned s st raw)
    (openItem : hasOpenItem s st ix) (empty : raw.payload = []) :
    exec (.itemCancel st raw none) s = .next (abortItem st ix .cancelled .idle none (restartTimer st ix (endReceiving s))) := by
  have fits : ¬ payloadFaulty raw 0 = true := by simp [payloadFaulty, checkOk, empty]
  rw [exec_itemCancel_own h, if_neg fits, withOpenItem_handles (fun ix s => abortItem st ix .cancelled .idle none s)
    (by exact openItem) (by simp) (by simp)]

theorem exec_stallExpiry_open {s : State} {st : Stream} {ix : ItemIx} (operating : s.flm.part = .operating)
    (timer : (s.stk.contexts[st]).timer ≠ none) (item : (s.stk.contexts[st]).item = some ix) :
    exec (.stallExpiry st none) s = .next (abortItem st ix .stalled .discard none s) := by
  refine congrArg Host.Outcome.next ?_
  refine (if_pos ⟨operating, Option.isSome_iff_ne_none.mpr timer⟩).trans ((if_neg (by decide)).trans ?_)
  simp only [item]
  rfl

/-! ### When the engine stops -/

/-- With the engine within a row, or in its last write, or not marked, nothing stops (log entry 14). -/
theorem stopIfSettling_stays {s : State}
    (working : ∀ w, s.cnv = some w → w.abandonMark = false ∨ w.phase = .rows ∨ w.phase = .lastWord) :
    stopIfSettling none s = s := by
  unfold stopIfSettling
  split
  · rfl
  · next w cnv =>
    have stays (settling : w.phase = .boundary ∨ ∃ x d, w.phase = .evaluating x d) : w.abandonMark ≠ true := by
      rcases working w cnv with mark | phase | phase
      · simp [mark]
      · simp [phase] at settling
      · simp [phase] at settling
    split
    · next x d phase => exact if_neg (stays (.inr ⟨x, d, phase⟩))
    · next phase => exact if_neg (stays (.inl phase))
    all_goals rfl

/-- A marked engine that settles its face, or stands between two attempts, stops at once (R95, R96). -/
theorem stopIfSettling_stops {s : State} {w : Work} (cnv : s.cnv = some w) (mark : w.abandonMark = true)
    (phase : w.phase = .boundary ∨ ∃ x d, w.phase = .evaluating x d) : stopIfSettling none s = cnvStop none w s := by
  unfold stopIfSettling
  rcases phase with phase | ⟨x, d, phase⟩ <;> simp only [cnv, phase, mark, if_true]

/-! ### When the engine takes a face -/

theorem cnvTake_busy {s : State} (busy : s.cnv ≠ none) : cnvTake none s = s := by
  obtain ⟨w, cnv⟩ := Option.ne_none_iff_exists'.mp busy
  simp only [cnvTake, cnv]

theorem cnvTake_empty {s : State} (empty : s.fmc.ready = []) : cnvTake none s = s := by
  cases cnv : s.cnv <;> simp only [cnvTake, cnv, empty]

theorem cnvTake_unheld {s : State} {k : Slot} {rest : List Slot} (waiting : s.fmc.ready = k :: rest)
    (unheld : faceHolding s k = none) : cnvTake none s = s := by
  cases cnv : s.cnv <;> simp only [cnvTake, cnv, waiting, unheld]
  rfl

/-- The idle engine takes the head of the ready queue (R51, R82). -/
theorem cnvTake_head {s : State} {k : Slot} {rest : List Slot} {p : ItemIx × Nat} {r : ItemRecord} {f : FaceRecord} (idle : s.cnv = none)
    (waiting : s.fmc.ready = k :: rest) (held : faceHolding s k = some p) (found : s.stk.items[p.1] = some r)
    (placed : r.faces[p.2]? = some f) :
    cnvTake none s =
      { putItem p.1 { r with faces := r.faces.set p.2 { f with state := .converting } } s with
        fmc := { s.fmc with slots := s.fmc.slots.set k .converting, ready := rest }
        cnv := some (takenWork p.1 p.2 k f r.profile) } := by
  simp only [cnvTake, idle, waiting, held, itemAt, found, faceAt_eq found, placed, modFace_eq _ found placed]
  rfl

theorem faceHolding_records {s : State} {k : Slot} {p : ItemIx × Nat} (held : faceHolding s k = some p) :
    ∃ r f, s.stk.items[p.1] = some r ∧ r.faces[p.2]? = some f := by
  obtain ⟨ix, -, found⟩ := List.exists_of_findSome?_eq_some held
  cases recorded : s.stk.items[ix] with
  | none => simp only [itemAt, recorded] at found; cases found
  | some r =>
    simp only [itemAt, recorded] at found
    obtain ⟨n, index, rfl⟩ := Option.map_eq_some_iff.mp found
    obtain ⟨inRange, -⟩ := List.findIdx?_eq_some_iff_getElem.mp index
    exact ⟨r, r.faces[n], recorded, List.getElem?_eq_getElem inRange⟩

/-! ### What follows an abort does not look at the record being received -/

section
variable (i : Ilu)

theorem applyPending_withIlu (st : Stream) (s : State) :
    applyPending st { s with ilu := i } = { applyPending st s with ilu := i } := by
  unfold applyPending pushNotice
  cases pending : (s.stk.map[st]).pending with
  | none => rfl
  | some held =>
    simp only
    split_ifs <;> rfl

theorem cnvTake_withIlu (s : State) : cnvTake none { s with ilu := i } = { cnvTake none s with ilu := i } := by
  by_cases idle : s.cnv = none
  · cases waiting : s.fmc.ready with
    | nil => rw [cnvTake_empty waiting, cnvTake_empty (by exact waiting)]
    | cons k rest =>
      cases held : faceHolding s k with
      | none => rw [cnvTake_unheld waiting held, cnvTake_unheld (by exact waiting) (by exact held)]
      | some p =>
        obtain ⟨r, f, found, placed⟩ := faceHolding_records held
        rw [cnvTake_head idle waiting held found placed,
          cnvTake_head (by exact idle) (by exact waiting) (by exact held) (by exact found) placed]
        rfl
  · rw [cnvTake_busy idle, cnvTake_busy (by exact idle)]

theorem tryFree_withIlu (ix : ItemIx) (s : State) : tryFree ix { s with ilu := i } = { tryFree ix s with ilu := i } := by
  cases found : s.stk.items[ix] with
  | none => simp only [tryFree, itemAt, found]
  | some r =>
    rw [tryFree_eq (r := r) (by exact found), tryFree_eq found]
    simp only [checkQuiesced_eq]
    split <;> rfl

theorem stopIfSettling_withIlu (s : State) :
    stopIfSettling none { s with ilu := i } = { stopIfSettling none s with ilu := i } := by
  by_cases settling : ∃ w, s.cnv = some w ∧ w.abandonMark = true ∧ (w.phase = .boundary ∨ ∃ x d, w.phase = .evaluating x d)
  · obtain ⟨w, cnv, mark, phase⟩ := settling
    rw [stopIfSettling_stops cnv mark phase, stopIfSettling_stops (by exact cnv) mark phase, cnvStop, cnvStop,
      ← cnvTake_withIlu, ← tryFree_withIlu]
    rfl
  · have working (w : Work) (cnv : s.cnv = some w) : w.abandonMark = false ∨ w.phase = .rows ∨ w.phase = .lastWord := by
      cases mark : w.abandonMark with
      | false => exact .inl rfl
      | true =>
        cases phase : w.phase with
        | rows => exact .inr (.inl rfl)
        | lastWord => exact .inr (.inr rfl)
        | boundary => exact absurd ⟨w, cnv, mark, .inl phase⟩ settling
        | evaluating x d => exact absurd ⟨w, cnv, mark, .inr ⟨x, d, phase⟩⟩ settling
    rw [stopIfSettling_stays working, stopIfSettling_stays (by exact working)]

end

theorem itemAborted_restarted {st : Stream} {ix : ItemIx} {r : ItemRecord} (x : CtxState) (o : ItemOutcome) (timer : Option Nat)
    (s : State) : itemAborted st ix r x o (setContext st { s.stk.contexts[st] with timer := timer } (endReceiving s)) =
      { itemAborted st ix r x o s with ilu := { s.ilu with recordOpen := false } } := by
  simp only [itemAborted, setContext_contexts]
  rw [show handedTo ix r (setContext st { s.stk.contexts[st] with timer := timer } (endReceiving s)) r.faces [] =
    setContext st { s.stk.contexts[st] with timer := timer } (endReceiving (handedTo ix r s r.faces [])) from rfl,
    putItem_setContext, setContext_setContext]
  rfl

/-- ITEM_CANCEL of an open item, whatever follows its abort (R41). -/
theorem itemCancel_aborts {s t : State} {st : Stream} {raw : Carried} {ix : ItemIx} {r : ItemRecord} (h : Owned s st raw)
    (empty : raw.payload = []) (openItem : hasOpenItem s st ix) (found : s.stk.items[ix] = some r)
    (alone : (r.faces.filterMap FaceRecord.slot).Nodup) (ready : s.fmc.ready.Nodup)
    (follows : stopIfSettling none (applyPending st (itemAborted st ix r .idle .cancelled s)) = t) :
    exec (.itemCancel st raw none) s = .next (relTry none { t with ilu := { s.ilu with recordOpen := false } }) := by
  have restarted : restartTimer st ix (endReceiving s) =
      setContext st { s.stk.contexts[st] with timer := some r.profile.stallTimeout } (endReceiving s) :=
    restartTimer_eq (by exact found)
  rw [exec_itemCancel_open h openItem empty, restarted, abortItem_eq _ _ (by exact found) alone (by exact ready), itemAborted_restarted,
    applyPending_withIlu, stopIfSettling_withIlu, follows]

/-- STALL_EXPIRY with an open item, whatever follows its abort (R43). -/
theorem stallExpiry_aborts {s t : State} {st : Stream} {ix : ItemIx} {r : ItemRecord} (operating : s.flm.part = .operating)
    (timer : (s.stk.contexts[st]).timer ≠ none) (item : (s.stk.contexts[st]).item = some ix) (found : s.stk.items[ix] = some r)
    (alone : (r.faces.filterMap FaceRecord.slot).Nodup) (ready : s.fmc.ready.Nodup)
    (follows : stopIfSettling none (applyPending st (itemAborted st ix r .discard .stalled s)) = t) :
    exec (.stallExpiry st none) s = .next (relTry none t) := by
  rw [exec_stallExpiry_open operating timer item, abortItem_eq _ _ found alone ready, follows]

/-! ### An item all of whose faces are settled -/

theorem abortFaces_settled {ix : ItemIx} {r : ItemRecord} {s : State} (found : s.stk.items[ix] = some r)
    (settled : ∀ f ∈ r.faces, f.state = .final ∧ f.slot = none) (ns : List Nat) : ns.foldl (abortFace ix) s = s := by
  induction ns with
  | nil => rfl
  | cons n ns ih =>
    have same : abortFace ix s n = s := by
      cases placed : r.faces[n]? with
      | none => simp only [abortFace, faceAt_eq found, placed]
      | some f =>
        obtain ⟨state, slot⟩ := settled f (List.mem_of_getElem? placed)
        exact abortFace_settled ((faceAt_eq found).trans placed) state slot
    rw [List.foldl_cons, same, ih]

theorem abortItem_settled {st : Stream} {ix : ItemIx} {r : ItemRecord} {s : State} (x : CtxState) (o : ItemOutcome)
    (found : s.stk.items[ix] = some r) (settled : ∀ f ∈ r.faces, f.state = .final ∧ f.slot = none) (idle : s.cnv = none) :
    abortItem st ix o x none s = relTry none (applyPending st
      (setContext st { s.stk.contexts[st] with state := x, item := none, face := none, timer := none }
        (putItem ix { r with state := .decided, outcome := some o } s))) := by
  rw [abortItem_parts, abortFaces_settled found settled, stopIfSettling_stays fun w cnv => ?_, abortDecided]
  · simp only
    rw [modItem_eq _ found]
    rfl
  · simp [abortDecided, idle] at cnv

/-- Settles O40: the faces handed off one by one, then the pending role, the engine and the release. -/
theorem cancelAndStallAbortItem : Obligations.CancelAndStallAbortItem := by
  intro s st ix r operating state item found context decided applied received cancelled stalled
  have openItem : hasOpenItem s st ix := ⟨state, item⟩
  have owned {raw : Carried} (h : received raw) : Owned s st raw := ⟨h.1, operating, h.2.1, by simp [h.2.2]⟩
  have restarted : restartTimer st ix (endReceiving s) =
      setContext st { s.stk.contexts[st] with timer := some r.profile.stallTimeout } (endReceiving s) :=
    restartTimer_eq (by exact found)
  have applies (t : State) (map : t.stk.map = s.stk.map) (part : t.flm.part = .operating) : applyPending st t = applied t := by
    cases pending : (s.stk.map[st]).pending with
    | none => simp only [applied, pending]; exact applyPending_none (by rw [map]; exact pending)
    | some held =>
      simp only [applied, pending]
      rw [applyPending_some (by rw [map]; exact pending) (not_bypass_of_operating part), map]
  refine ⟨fun raw h => ?_, fun timer => ?_, fun settled idle => ⟨fun raw h => ?_, fun timer => ?_⟩, fun alone ready => ?_⟩
  · refine ⟨_, exec_itemCancel_open (owned h) openItem h.2.2, ?_⟩
    rw [abortItem_contexts, restarted, setContext_contexts]
    exact Vector.set_set ..
  · exact ⟨_, exec_stallExpiry_open operating timer item, abortItem_contexts _ _ _ _ _⟩
  · rw [exec_itemCancel_open (owned h) openItem h.2.2, restarted, abortItem_settled _ _ (by exact found) settled (by exact idle),
      setContext_contexts, putItem_setContext, setContext_setContext]
    refine congrArg (fun t => Host.Outcome.next (relTry none t)) ?_
    exact (applyPending_withIlu _ st { s with stk := decided .idle .cancelled r.faces }).trans
      (congrArg (fun t : State => { t with ilu := { s.ilu with recordOpen := false } })
        (applies { s with stk := decided .idle .cancelled r.faces } rfl operating))
  · rw [exec_stallExpiry_open operating timer item, abortItem_settled _ _ found settled idle]
    exact congrArg (fun t => Host.Outcome.next (relTry none t))
      (applies { s with stk := decided .discard .stalled r.faces } rfl operating)
  · intro gone handed
    have appliedCnv (t : State) : (applied t).cnv = t.cnv := by
      cases pending : (s.stk.map[st]).pending <;> simp only [applied, pending]
    have appliedItems (t : State) : (applied t).stk.items = t.stk.items := by
      cases pending : (s.stk.map[st]).pending <;> simp only [applied, pending]
    have handedCnv (x : CtxState) (o : ItemOutcome) : (handed x o).cnv = s.cnv := appliedCnv _
    have follows (x : CtxState) (o : ItemOutcome) : applyPending st (itemAborted st ix r x o s) =
        { handed x o with cnv := marked ix r.faces s.cnv } := by
      have shape : itemAborted st ix r x o s =
          { s with
            stk := decided x o (r.faces.map (aborted s))
            scu := unbound r.faces s.scu
            fmc := { s.fmc with
              slots := scrubbed gone s.fmc.slots
              scrubOrder := s.fmc.scrubOrder ++ gone
              ready := unready r.faces s.fmc.ready }
            cnv := marked ix r.faces s.cnv } := by
        simp only [itemAborted, handedTo, putItem, setContext, Vector.set_set]
        rfl
      rw [shape, applies _ (by rfl) (by exact operating)]
      cases pending : (s.stk.map[st]).pending <;> simp only [handed, applied, pending] <;> rfl
    have both (T : CtxState → ItemOutcome → State)
        (ends : ∀ x o, stopIfSettling none { handed x o with cnv := marked ix r.faces s.cnv } = T x o) :
        cancelled (T .idle .cancelled) ∧ stalled (T .discard .stalled) :=
      ⟨fun raw h => itemCancel_aborts (owned h) h.2.2 openItem found alone ready ((congrArg (stopIfSettling none) (follows _ _)).trans (ends _ _)),
        fun timer => stallExpiry_aborts operating timer item found alone ready ((congrArg (stopIfSettling none) (follows _ _)).trans (ends _ _))⟩
    refine ⟨fun elsewhere => both handed fun x o => ?_, fun w f working here unmarked placed converting slot => ?_⟩
    · have same : marked ix r.faces s.cnv = s.cnv := by
        cases cnv : s.cnv with
        | none => rfl
        | some w => simp [marked, (elsewhere w cnv).1]
      have kept : { handed x o with cnv := marked ix r.faces s.cnv } = handed x o := by
        rw [same, ← handedCnv x o]
      rw [kept]
      exact stopIfSettling_stays fun w cnv => (elsewhere w ((handedCnv x o).symm.trans cnv)).2
    · have mark : marked ix r.faces s.cnv = some { w with abandonMark := true } := by
        simp [marked, working, here, isConverting, placed, converting]
      refine ⟨fun phase => both (fun x o => { handed x o with cnv := some { w with abandonMark := true } }) fun x o => ?_,
        fun phase => ?_⟩
      · rw [mark]
        exact stopIfSettling_stays fun v cnv => by
          rw [← Option.some.inj cnv]
          exact .inr phase
      · intro stopped
        refine both stopped fun x o => ?_
        have recorded : (handed x o).stk.items[w.item] =
            some { r with state := .decided, outcome := some o, faces := r.faces.map (aborted s) } := by
          have recordedAt (j : ItemIx) (same : j = ix) : (handed x o).stk.items[j] =
              some { r with state := .decided, outcome := some o, faces := r.faces.map (aborted s) } := by
            subst same
            rw [show (handed x o).stk.items = _ from appliedItems _]
            exact Vector.getElem_set_self _
          exact recordedAt w.item here
        rw [mark, stopIfSettling_stops (w := { w with abandonMark := true }) rfl rfl phase, cnvStop_eq (by exact recorded)]
        rfl

end Sys2Proof.Proofs
end

section
/-! Pin reset, scrub and verify, and the reads that count (Chapter 11, R46, R47). -/

namespace Sys2Proof.Proofs
open Sys2Proof.Machine Sys2Proof.Safety Sys2Proof.Laws

/-! ## Pin reset -/

theorem interruptedCells_check (used : Nat) (cells : Vector Byte 6) : (interruptedCells used cells)[5] = cells[5] := by
  simp [interruptedCells]

/-- Settles O60: the reset part with what the store and face memory keep. -/
theorem pinResetStartsAnew : Obligations.PinResetStartsAnew := by
  refine ⟨fun s notHeld => ?_, fun s held => ?_⟩
  · refine ⟨_, congrArg Host.Outcome.next (if_neg notHeld), rfl, ?_, fun idle => ?_, rfl⟩
    · simp only
      split
      · exact interruptedCells_check _ _
      · rfl
    · simp only [idle, ne_eq, not_true, decide_false, Bool.false_eq_true, if_false, and_true]
      rw [← idle]
  · intro settings
    refine ⟨_, congrArg Host.Outcome.next (if_pos held), released_noWork s, rfl, rfl, mapOfMask_entry settings.mask, rfl, rfl, rfl, rfl,
      released_slot s, rfl, rfl, rfl, rfl, rfl, rfl, rfl, rfl, rfl, rfl, fun n other => ?_, fun n => ?_, fun n => ?_, fun n => ?_,
      rfl, rfl, rfl, rfl, rfl, rfl, rfl, rfl, rfl, rfl, rfl, rfl, rfl, rfl, rfl, rfl, rfl, released_link s, released_fillGen s, rfl, rfl⟩
    · have untouched : (released s).dru.profiles[n] = { valid := false, fields := Profile.zero } :=
        (Vector.getElem_set_ne (by decide) n.isLt fun e => other (Fin.ext e.symm)).trans (Vector.getElem_replicate _)
      rw [untouched]
    · rw [show (released s).dru.rules[n] = Rule.blank from Vector.getElem_replicate _]
      rfl
    · rw [show (released s).dru.codeSlots[n] = _ from Vector.getElem_replicate _]
    · rw [show (released s).dru.toneSlots[n] = _ from Vector.getElem_replicate _]

/-! ## One word read -/

/-- The limit tally comes to 16 from 15 alone (R47). -/
theorem satInc_limit (c : Count) : (satInc c).toNat = Config.memoryLimit ↔ c.toNat = 15 := by
  rw [satInc_eq, satAdd_toNat, Config.memoryLimit]
  omega

section
variable {s : State} {w : Nat} {now : ReadResult}

theorem readWord_snd (s : State) (w : Nat) (now : ReadResult) : (readWord w now s).2 = s.fmc.mem.readResult w now := rfl

theorem readWord_clean (found : s.fmc.mem.readResult w now = .clean) : (readWord w now s).1 = s := by
  simp [readWord, found, countResult, FaceMemory.noteDamage]

theorem readWord_corrected (found : s.fmc.mem.readResult w now = .corrected) :
    (readWord w now s).1 = { s with fmc := { s.fmc with
      corrected := satInc s.fmc.corrected, mem := s.fmc.mem.noteDamage w .corrected } } := by
  simp [readWord, found, countResult]

/-- The part once an uncorrectable word has been counted, no fault being latched by it. -/
def uncorrectableRead (w : Nat) (s : State) : State :=
  { s with fmc := { s.fmc with
      uncorrectable := satInc s.fmc.uncorrectable, tally := satInc s.fmc.tally
      mem := s.fmc.mem.noteDamage w .uncorrectable } }

theorem readWord_limit (found : s.fmc.mem.readResult w now = .uncorrectable) (limit : s.fmc.tally.toNat = 15) :
    (readWord w now s).1 = latch .memoryLimit (uncorrectableRead w s) := by
  simp only [readWord, found, countResult]
  exact if_pos ((satInc_limit _).mpr limit)

theorem readWord_uncorrectable (found : s.fmc.mem.readResult w now = .uncorrectable)
    (below : s.fmc.tally.toNat ≠ 15 ∨ s.flm.latch ≠ none) : (readWord w now s).1 = uncorrectableRead w s := by
  by_cases limit : s.fmc.tally.toNat = 15
  · rw [readWord_limit found limit, latch, if_neg fun h => below.elim (· limit) (· h.1)]
  · simp only [readWord, found, countResult]
    exact if_neg fun h => limit ((satInc_limit _).mp h)

end

theorem latchedSince_same {s t : State} (same : t.flm = s.flm) : latchedSince s t = false := by
  unfold latchedSince
  rw [same]
  cases s.flm.latch <;> rfl

/-- An uncorrectable word of a record is sent as zero bytes (R17). -/
theorem zeroWord_eq {w : Nat} {bytes : List Byte} (inside : 8 * w < bytes.length) :
    zeroWord w bytes = bytes.take (8 * w) ++ List.replicate (min 8 (bytes.length - 8 * w)) 0 ++ bytes.drop (8 * w + 8) := by
  refine List.ext_getElem (by simp [zeroWord]; omega) fun i hi hj => ?_
  simp only [zeroWord, List.getElem_mapIdx]
  simp only [List.getElem_append, List.getElem_take, List.getElem_replicate, List.getElem_drop, List.length_append,
    List.length_take, List.length_replicate]
  have below : i < bytes.length := by simpa [zeroWord] using hi
  split_ifs with word before within before within
  · omega
  · rfl
  · omega
  · rfl
  · omega
  · congr 1
    omega

/-- Eight bytes hold a nonzero one just where they do not all read as zero. -/
theorem anyNonzero_eq (m : FaceMemory) (a : Nat) :
    (m.readBytes a 8).any (fun b => b != 0) = !decide (∀ i : Fin 8, m.read (a + i.val) = 0) := by
  rw [Bool.eq_iff_iff]
  simp only [FaceMemory.readBytes, List.any_map, List.any_eq_true, List.mem_range, Function.comp_apply, bne_iff_ne,
    Bool.not_eq_true', decide_eq_false_iff_not, not_forall]
  exact ⟨fun ⟨i, below, nonzero⟩ => ⟨⟨i, below⟩, nonzero⟩, fun ⟨i, nonzero⟩ => ⟨i.val, i.isLt, nonzero⟩⟩

/-- VERIFY_READ of a word, a verify being in progress: read, and its result taken unless the read latches (R56, R199). -/
theorem exec_verifyRead {s : State} {word : Nat} {ok : Bool} (now : ReadResult) (z : Bool) (inside : word < 20447232)
    (verifying : s.fmc.verify = some ok) :
    exec (.verifyRead word now z) s = .next
      (if latchedSince s (readWord word now s).1 then (readWord word now s).1
      else { (readWord word now s).1 with fmc := { (readWord word now s).1.fmc with
        verify := some (ok && !(z || decide (s.fmc.mem.readResult word now = .uncorrectable) ||
          !decide (∀ i : Fin 8, s.fmc.mem.read (8 * word + i.val) = 0))) } }) := by
  refine (if_neg (Nat.not_le.mpr inside)).trans ?_
  rw [verifying]
  simp only [anyNonzero_eq, readWord_snd]
  rfl

/-- What a latch leaves, the record being sent replaced. -/
theorem Latched_withLink {cause : FaultCause} {s t : State} (h : Latched cause s t) (link : EgressLink) :
    Latched cause { s with elu := { s.elu with link := link } } { t with elu := { t.elu with link := link } } := by
  obtain ⟨flm, work, notice, roles, tables, counts, ingress, slots, memory, elu, others⟩ := h
  exact ⟨flm, NoWork_congr work rfl rfl rfl rfl rfl rfl rfl rfl, by cases cause <;> exact notice, roles, tables, counts, ingress, slots, memory,
    congrArg (fun e : Elu => { e with link := link }) elu, others⟩

/-- The sixteenth uncorrectable read, no fault being latched before (R47, R205). -/
theorem readWord_sixteenth {s : State} {w : Nat} {now : ReadResult} (found : s.fmc.mem.readResult w now = .uncorrectable)
    (limit : s.fmc.tally.toNat = 15) (clear : s.flm.latch = none) (part : s.flm.part = .starting ∨ s.flm.part = .operating)
    (link : s.elu.link ≠ .between) :
    Latched .memoryLimit (uncorrectableRead w s) (readWord w now s).1 ∧ (readWord w now s).1.fmc.tally.toNat = 16 := by
  have latched : Latched .memoryLimit (uncorrectableRead w s) (readWord w now s).1 :=
    readWord_limit found limit ▸ latch_latched (s := uncorrectableRead w s) clear part link
  refine ⟨latched, ?_⟩
  rw [latched.memory]
  exact (satInc_limit _).mpr limit

/-- A word that VERIFY_READ finds, by what the read finds. -/
theorem verifyRead_counts {s : State} {word : Nat} {ok z : Bool} {now : ReadResult} (inside : word < 20447232)
    (verifying : s.fmc.verify = some ok) :
    let found := s.fmc.mem.readResult word now
    let verified := ok && !z && decide (∀ i : Fin 8, s.fmc.mem.read (8 * word + i.val) = 0)
    (found = .clean →
      exec (.verifyRead word now z) s = .next { s with fmc := { s.fmc with verify := some verified } }) ∧
    (found = .corrected →
      exec (.verifyRead word now z) s = .next { s with fmc := { s.fmc with
        verify := some verified, corrected := satInc s.fmc.corrected, mem := s.fmc.mem.noteDamage word found } }) ∧
    (found = .uncorrectable → s.fmc.tally.toNat ≠ 15 →
      exec (.verifyRead word now z) s = .next { s with fmc := { s.fmc with
        verify := some false, uncorrectable := satInc s.fmc.uncorrectable, tally := satInc s.fmc.tally
        mem := s.fmc.mem.noteDamage word found } }) := by
  have sound (b c : Bool) : (ok && !(z || false || !b)) = (ok && !z && b) := by cases ok <;> cases z <;> simp
  refine ⟨fun found => ?_, fun found => ?_, fun found below => ?_⟩
  · rw [exec_verifyRead now z inside verifying, readWord_clean found, if_neg (by exact Bool.eq_false_iff.mp (latchedSince_same rfl))]
    simp only [found, reduceCtorEq, decide_false, sound _ true]
  · rw [exec_verifyRead now z inside verifying, readWord_corrected found, if_neg (by exact Bool.eq_false_iff.mp (latchedSince_same rfl))]
    simp only [found, reduceCtorEq, decide_false, sound _ true]
  · rw [exec_verifyRead now z inside verifying, readWord_uncorrectable found (.inl below),
      if_neg (by exact Bool.eq_false_iff.mp (latchedSince_same rfl))]
    simp only [found, decide_true, Bool.or_true, Bool.true_or, Bool.not_true, Bool.and_false, uncorrectableRead]

/-- PASS_THROUGH_READ of a word of the record being sent (R17). -/
theorem exec_passThroughRead {s : State} {word : Nat} {bytes : List Byte} {p : PassEntry} {ps : List PassEntry} (now : ReadResult)
    (link : s.elu.link = .sending .passThrough bytes) (fifo : s.elu.fifo = p :: ps) (inside : 8 * word < bytes.length) :
    exec (.passThroughRead word now) s = .next
      (if s.fmc.mem.readResult (passEntryBase p.entry / 8 + word) now = .uncorrectable then
        { (readWord (passEntryBase p.entry / 8 + word) now s).1 with
          elu := { (readWord (passEntryBase p.entry / 8 + word) now s).1.elu with
            link := .sending .passThrough (zeroWord word bytes) } }
      else (readWord (passEntryBase p.entry / 8 + word) now s).1) := by
  show execPassThroughRead word now s = _
  rw [execPassThroughRead, link, fifo]
  exact if_neg (Nat.not_le.mpr inside)

/-- Settles O59: one word read, by what the read finds. -/
theorem memoryReadsCounted : Obligations.MemoryReadsCounted := by
  intro s word now
  refine ⟨fun outside z => if_pos outside, fun ok z inside verifying => ?_, fun p ps bytes link fifo => ?_⟩
  · intro found verified
    obtain ⟨clean, corrected, below⟩ := verifyRead_counts (z := z) (now := now) inside verifying
    refine ⟨clean, corrected, below, fun bad limit part clear between => ?_⟩
    obtain ⟨latched, tally⟩ := readWord_sixteenth bad limit clear (.inl part) between
    refine ⟨_, (exec_verifyRead now z inside verifying).trans (congrArg Host.Outcome.next (if_pos ?_)), latched.flm, tally,
      latched.work, latched.notice⟩
    exact latchedSince_iff.mpr ⟨by simp [latched.flm], clear⟩
  · intro found
    refine ⟨fun outside => ?_, fun inside => ⟨fun clean => ?_, fun corrected => ?_, fun bad => ⟨fun below => ?_, fun limit clear part => ?_⟩⟩⟩
    · show execPassThroughRead word now s = _
      rw [execPassThroughRead, link, fifo]
      exact if_pos outside
    · rw [exec_passThroughRead now link fifo inside, if_neg (ne_of_eq_of_ne clean (by decide)), readWord_clean clean]
    · rw [exec_passThroughRead now link fifo inside, if_neg (ne_of_eq_of_ne corrected (by decide)), readWord_corrected corrected, corrected]
    · rw [exec_passThroughRead now link fifo inside, if_pos bad, readWord_uncorrectable bad below, zeroWord_eq inside, bad]
      rfl
    · obtain ⟨latched, tally⟩ := readWord_sixteenth bad limit clear part (by rw [link]; nofun)
      refine ⟨_, (exec_passThroughRead now link fifo inside).trans (congrArg Host.Outcome.next (if_pos bad)), tally, ?_⟩
      rw [zeroWord_eq inside, bad]
      exact Latched_withLink latched _

/-! ## Scrub and verify -/

/-- The pacing flag as it stands once `free` slots are free (R62). -/
theorem evalPacing_flag (s : State) :
    evalPacing s = { s with fmc := { s.fmc with
      pacing := if s.flm.part = .operating then
          (if s.fmc.pacing then decide (s.fmc.slots.count .free < s.fmc.mark + 4) else decide (s.fmc.slots.count .free ≤ s.fmc.mark))
        else s.fmc.pacing } } := by
  by_cases operating : s.flm.part = .operating
  · rw [evalPacing, if_pos operating, if_pos operating]
    rfl
  · rw [evalPacing, if_neg operating, if_neg operating]

/-- SCRUB_COMPLETE out of reset, a slot waiting to be wiped. -/
theorem exec_scrubComplete {s : State} {k : Slot} {rest : List Slot} (part : s.flm.part ≠ .held)
    (order : s.fmc.scrubOrder = k :: rest) :
    exec .scrubComplete s = .next (evalPacing
      { s with fmc := { s.fmc with
          mem := s.fmc.mem.scrub (greyBase k) Config.slotBytes
          slots := s.fmc.slots.set k .free
          scrubOrder := rest
          verify := if s.flm.part = .starting ∧ rest = [] then some true else s.fmc.verify } }) := by
  show execScrubComplete s = _
  rw [execScrubComplete, if_neg part, order]

/-- A latch sees nothing of the verify in progress, and ends it (R205). -/
theorem Latched_verify {cause : FaultCause} {s t : State} {v : Option Bool}
    (h : Latched cause { s with fmc := { s.fmc with verify := v } } t) : Latched cause s t :=
  ⟨h.flm, h.work, by cases cause <;> exact h.notice, h.roles, h.tables, h.counts, h.ingress, h.slots, h.memory, h.others⟩

/-- Settles O58: the wiped slot, and the verify's end by its result. -/
theorem scrubAndVerify : Obligations.ScrubAndVerify := by
  refine ⟨fun s k rest part order => ?_, fun s starting => ⟨fun passed => ?_, fun failed clear between => ?_⟩⟩
  · refine ⟨_, exec_scrubComplete part order, fun a => ?_, fun w => ?_, ?_⟩
    · rw [evalPacing_flag]
      exact read_scrub ..
    · rw [evalPacing_flag]
      exact readResult_scrub ..
    · simp only [evalPacing_flag]
  · show execVerifyComplete s = _
    rw [execVerifyComplete, passed]
    simp only [starting, ne_eq, not_true_eq_false, if_false, if_true]
    exact congrArg Host.Outcome.next (pushNotice_eq (by simp))
  · have latched := latch_latched (cause := .scrubVerify) (s := { s with fmc := { s.fmc with verify := none } }) clear (.inl starting) between
    refine ⟨_, ?_, latched.flm, latched.work, latched.notice, latched.others.1, Latched_verify latched⟩
    show execVerifyComplete s = _
    rw [execVerifyComplete, failed]
    simp only [starting, ne_eq, not_true_eq_false, if_false, Bool.false_eq_true]

end Sys2Proof.Proofs
end

section
/-! The steps of the pipeline: rows scaled, faces made ready and taken, attempts measured, faces settled (R50 to R52, R69 to R76, R91, R92). -/

namespace Sys2Proof.Proofs
open Sys2Proof.Machine Sys2Proof.Safety Sys2Proof.Laws

/-! ## Input rows -/

section
variable {s : State} {k : Slot} {c : ScaleCtx} {row : InputRow} {rest : List InputRow} (bound : s.scu[k] = some c)
  (waiting : c.waiting = row :: rest) {d : ScaleCtx}
include bound waiting

/-- SCU_INPUT_ROW with a row handed over that writes no output row at once (R69 to R71). -/
theorem exec_scuInputRow_holds (takes : takeInputRow s.dru { c with waiting := rest } row = (d, none)) :
    exec (.scuInputRow k none) s = .next { s with scu := s.scu.set k (some d) } := by
  show execScuInputRow k none s = _
  simp only [execScuInputRow, bound, waiting, reduceCtorEq, false_and, if_false, takes]

/-- SCU_INPUT_ROW with a row handed over that ends an output row below the last (R70, R74). -/
theorem exec_scuInputRow_writes {n : Nat} {bytes : List Byte}
    (takes : takeInputRow s.dru { c with waiting := rest } row = (d, some (n, bytes))) :
    exec (.scuInputRow k none) s = .next (writeGrey k n bytes { s with scu := s.scu.set k (some d) }) := by
  show execScuInputRow k none s = _
  simp only [execScuInputRow, bound, waiting, reduceCtorEq, false_and, if_false, takes]

end

/-- Settles O51: the four things a row can do to the line. -/
theorem inputRowScaled : Obligations.InputRowScaled := by
  intro s k c row rest bound waiting
  refine ⟨fun past => ?_, fun inside short => ?_, fun below reached filling canonical => ?_, fun last reached => ?_⟩
  · exact exec_scuInputRow_holds bound waiting (if_pos past)
  · exact exec_scuInputRow_holds bound waiting ((if_neg (by exact Nat.not_le.mpr inside)).trans (if_pos short))
  · refine ⟨_, (exec_scuInputRow_writes bound waiting ((if_neg (by exact Nat.not_le.mpr (Nat.lt_of_succ_lt below))).trans
      ((if_neg (by exact Nat.not_lt.mpr reached)).trans (if_pos below)))).trans (congrArg Host.Outcome.next (if_pos filling)), ?_, rfl⟩
    exact wrote_write canonical _ _
  · have inside : c.lineRow < c.outHeight := by omega
    exact exec_scuInputRow_holds bound waiting ((if_neg (by exact Nat.not_le.mpr inside)).trans
      ((if_neg (by exact Nat.not_lt.mpr reached)).trans (if_neg (by exact Nat.not_lt.mpr last.ge))))

/-! ## Settling a face -/

/-- The decision after a face's settling, no parity error being met (R143). -/
theorem decideItem_decidedIf {ix : ItemIx} {s : State} {r : ItemRecord} (found : s.stk.items[ix] = some r) :
    decideItem none ix s = putItem ix (decidedIf r) s := by
  by_cases closed : r.state = .closed
  · rw [decideItem_eq found closed]
    simp only [decidedWhereFinal, decidedIf, closed, true_and]
  · simp only [decideItem, itemAt, found, decidedIf, closed, false_and, if_false]
    rw [putItem, ← found]
    simp only [Fin.getElem_fin, Vector.set_getElem_self, reduceCtorEq, if_false]

/-- What settling leaves before the next face is taken: the record settled, which may decide its item, the slot moved, the engine
idle (R52, R93, R143). -/
def settledPart (w : Work) (r : ItemRecord) (settled : FaceRecord) (kept : Bool) (s : State) : State :=
  { s with
    stk := { s.stk with items := s.stk.items.set w.item (some (decidedIf { r with faces := r.faces.set w.face settled })) }
    fmc := { s.fmc with
      slots := s.fmc.slots.set w.slot (if kept then .coded else .scrubbing)
      scrubOrder := s.fmc.scrubOrder ++ (if kept then [] else [w.slot]) }
    cnv := none }

/-- A face is settled with its slot kept, or taken from it (R52). -/
theorem settleFace_eq {w : Work} {g : FaceRecord → FaceRecord} {s : State} {r : ItemRecord} {f : FaceRecord} (kept : Bool)
    (found : s.stk.items[w.item] = some r) (face : r.faces[w.face]? = some f) {settled : FaceRecord}
    (settles : settled = { (g f) with state := .final, slot := if kept then f.slot else none }) :
    settleFace w kept g none s = relTry none (cnvTake none (settledPart w r settled kept s)) := by
  rw [settleFace, modFace_eq _ found face, ← settles]
  let left : ItemRecord := { r with faces := r.faces.set w.face settled }
  cases kept
  · simp only [Bool.false_eq_true, if_false]
    rw [decideItem_decidedIf (r := left) (by exact putItem_items _ _ _)]
    simp only [left, settledPart, putItem, toScrub, Vector.set_set, Bool.false_eq_true, if_false]
  · simp only [if_true]
    rw [decideItem_decidedIf (r := left) (by exact putItem_items _ _ _)]
    simp only [left, settledPart, putItem, setSlot, Vector.set_set, List.append_nil, if_true]

/-- EVALUATION_END with the engine's face recorded (R138 to R140). -/
theorem exec_evaluationEnd {s : State} {w : Work} {f : FaceRecord} {working : BitVec 32} {disposition : Disposition}
    (engine : s.cnv = some w) (phase : w.phase = .evaluating working disposition) (face : faceAt s w.item w.face = some f) :
    let result := ruleResult disposition (takeEntries s.dru.rules f w.params.ruleMask working)
    exec (.evaluationEnd none) s = .next (settleFace w (result.2 ≠ .withheldRule)
      (fun f => { (f.setFlags result.1) with disposition := some result.2 }) none s) := by
  intro result
  show execEvaluationEnd none s = _
  simp only [execEvaluationEnd, engine, phase, face, reduceCtorEq, if_false]
  rfl

/-- Settles O55: by what the recorded actions say. -/
theorem evaluationSettlesFace : Obligations.EvaluationSettlesFace := by
  intro s w r f working disposition engine phase found face kept ev withheld suspect settled
  have notRule : disposition ≠ .withheldRule := by rcases kept with rfl | rfl <;> decide
  rw [exec_evaluationEnd engine phase ((faceAt_eq found).trans face)]
  by_cases withholds : RuleAction.withhold ∈ ev.actions
  · have result : ruleResult disposition ev = (ev.working, .withheldRule) := if_pos withholds
    have settles : settled = { (f.setFlags ev.working) with disposition := some .withheldRule, state := .final, slot := none } := by
      simp [settled, suspect, withheld, withholds, FaceRecord.setFlags]
    rw [result, show decide (Disposition.withheldRule ≠ .withheldRule) = false by decide, settleFace_eq false found face settles,
      settledPart]
    simp only [withheld, if_pos withholds, Bool.false_eq_true, if_false]
  · have result : ruleResult disposition ev = (ev.working ||| suspect, disposition) := by
      simp only [ruleResult, suspect, withheld, withholds, not_false_eq_true, true_and, if_false]
      split_ifs <;> simp
    have settles : settled = { (f.setFlags (ev.working ||| suspect)) with
        disposition := some disposition, state := .final, slot := f.slot } := by
      simp [settled, withheld, withholds, FaceRecord.setFlags]
    rw [result, show decide (disposition ≠ .withheldRule) = true from decide_eq_true notRule, settleFace_eq true found face settles,
      settledPart]
    simp only [withheld, if_neg withholds, if_true]

/-! ## The end of an attempt -/

theorem relTry_mem (s : State) : (relTry none s).fmc = s.fmc := by
  obtain ⟨items, position, release, same⟩ := relTry_none_frame s
  rw [same]

theorem cnvTake_mem (s : State) : (cnvTake none s).fmc.mem = s.fmc.mem := by
  rcases cnvTake_none_cases s with same | ⟨k, rest, ix, n, r, f, -, -, -, -, -, taken⟩
  · rw [same]
  · rw [taken]

theorem engineStopped_mem (w : Work) (r : ItemRecord) (s : State) : (engineStopped w r s).fmc.mem = s.fmc.mem := by
  unfold engineStopped
  simp only
  split_ifs <;> rfl

/-- Coded data that fits the area is written, a write of nothing changing nothing (R48, R113). -/
theorem writeCoded_wrote {s : State} {k : Slot} {w : Nat} {bytes : List Byte} (converting : s.fmc.slots[k] = .converting)
    (fits : bytes = [] ∨ 8 * w + bytes.length ≤ 131072) (canonical : MemoryCanonical s) :
    ∃ m, writeCoded k w bytes s = { s with fmc := { s.fmc with mem := m } } ∧ Wrote s.fmc.mem m (codedBase k + 8 * w) bytes := by
  by_cases room : 8 * w + bytes.length ≤ 131072
  · exact ⟨_, if_pos ⟨converting, room⟩, wrote_write canonical _ _⟩
  · obtain rfl := fits.resolve_right room
    refine ⟨s.fmc.mem, if_neg fun h => room h.2, fun a => (if_neg ?_).symm, fun v => (if_neg ?_).symm⟩
    · simp only [List.length_nil]; omega
    · simp only [List.length_nil, codedBase, Config.slotBytes, Config.greyBytes]; omega

/-- The attempt's last word is eight bytes, or none (R114). -/
theorem lastWordBytes_fits {c : Coder} {w : Nat} (fits : c.hand = [] ∨ 8 * w + 8 ≤ 131072) (hand : c.hand.length ≤ 64) :
    lastWordBytes c = [] ∨ 8 * w + (lastWordBytes c).length ≤ 131072 := by
  refine fits.imp (fun none => if_pos none) fun room => ?_
  unfold lastWordBytes
  split
  · simp only [List.length_nil]; omega
  · rw [packBytes_length 8 _ (by simp; omega)]; exact room

/-- ATTEMPT_FIT at the last word (R92, R95, R114). -/
theorem exec_attemptFit {s : State} {w : Work} (engine : s.cnv = some w) (phase : w.phase = .lastWord) {t : State}
    (writes : writeCoded w.slot w.coder.wordsWritten (lastWordBytes w.coder) s = t) :
    (w.abandonMark = true → exec (.attemptFit none) s = .next (cnvStop none w t)) ∧
      ∀ f, w.abandonMark = false → faceAt (modFace w.item w.face (fun f => f.endAttempt w) t) w.item w.face = some f →
        exec (.attemptFit none) s = .next { modFace w.item w.face (fun f => f.endAttempt w) t with
          cnv := some { w with
            coder := w.coder.finish
            phase := .evaluating (f.flags ||| fitFlags f.codedBytes w.params.ceiling w.params.floor)
              (fitDisposition f.codedBytes w.params.ceiling) } } := by
  refine ⟨fun marked => ?_, fun f unmarked face => ?_⟩
  all_goals
    show execAttemptFit none s = _
    simp only [execAttemptFit, engine, phase, reduceCtorEq, if_false, if_true, writes]
  · simp only [marked, if_true]
  · simp only [unmarked, Bool.false_eq_true, if_false, face]

theorem fitFlags_eq (coded ceiling floor : Nat) :
    fitFlags coded ceiling floor = if ceiling < coded then flagOverCeiling else if coded < floor then flagUndersize else 0 := by
  simp only [fitFlags, ← Nat.not_lt, ite_not, flagIf, decide_eq_true_eq]
  rfl

theorem fitDisposition_eq (coded ceiling : Nat) :
    fitDisposition coded ceiling = if ceiling < coded then .codedOver else .coded := by
  simp only [fitDisposition, ← Nat.not_lt, ite_not]

/-- Settles O54: with the abandon mark, and without. -/
theorem attemptFitMeasured : Obligations.AttemptFitMeasured := by
  intro s w r f engine phase converting found face canonical fits hand last coded measured flags disposition coder
  obtain ⟨m, writes, wrote⟩ := writeCoded_wrote converting (lastWordBytes_fits fits hand) canonical
  obtain ⟨stops, goesOn⟩ := exec_attemptFit engine phase writes
  rcases (Bool.eq_false_or_eq_true w.abandonMark).symm with mark | mark
  · have ends : modFace w.item w.face (fun f => f.endAttempt w) { s with fmc := { s.fmc with mem := m } } =
        putItem w.item { r with faces := r.faces.set w.face measured } { s with fmc := { s.fmc with mem := m } } :=
      modFace_eq _ (by exact found) face
    have placed : faceAt (putItem w.item { r with faces := r.faces.set w.face measured }
        { s with fmc := { s.fmc with mem := m } }) w.item w.face = some measured :=
      (faceAt_eq (putItem_items _ _ _)).trans (List.getElem?_set_self (List.getElem?_eq_some_iff.mp face).1)
    have done := goesOn measured mark (ends ▸ placed)
    rw [fitFlags_eq, fitDisposition_eq, ends] at done
    exact ⟨_, done, wrote, fun _ => rfl, fun marked => absurd (mark.symm.trans marked) (by decide)⟩
  · rw [cnvStop_eq (r := r) (by exact found)] at stops
    have kept : (cnvTake none (engineStopped w r { s with fmc := { s.fmc with mem := m } })).fmc.mem = m :=
      (cnvTake_mem _).trans (engineStopped_mem ..)
    refine ⟨_, stops mark, ?_, fun unmarked => absurd (mark.symm.trans unmarked) (by decide), fun _ => ?_⟩
    · rw [kept]
      exact wrote
    · rw [kept]

end Sys2Proof.Proofs
end

section
/-! The taking of a face by the Conversion Engine (R50, R51, R72, R76, R82). -/

namespace Sys2Proof.Proofs
open Sys2Proof.Machine Sys2Proof.Safety Sys2Proof.Laws

/-! ## The face that holds a slot -/

theorem faceHolding_holds {s : State} {k : Slot} {ix : ItemIx} {n : Nat} (held : faceHolding s k = some (ix, n)) :
    ∃ r f, s.stk.items[ix] = some r ∧ r.faces[n]? = some f ∧ f.slot = some k := by
  obtain ⟨jx, -, found⟩ := List.exists_of_findSome?_eq_some held
  cases recorded : s.stk.items[jx] with
  | none => simp only [itemAt, recorded] at found; cases found
  | some r =>
    simp only [itemAt, recorded] at found
    obtain ⟨m, index, pair⟩ := Option.map_eq_some_iff.mp found
    obtain ⟨rfl, rfl⟩ := Prod.mk.inj pair
    obtain ⟨here, holds, -⟩ := List.findIdx?_eq_some_iff_getElem.mp index
    exact ⟨r, r.faces[m], recorded, List.getElem?_eq_getElem here, by simpa using holds⟩

/-- The one face that holds a slot is found (R51). -/
theorem faceHolding_alone {s : State} {k : Slot} {ix : ItemIx} {n : Nat} {r : ItemRecord} {f : FaceRecord}
    (alone : holdsAlone s k ix n r f) : faceHolding s k = some (ix, n) := by
  obtain ⟨found, face, slot, only⟩ := alone
  cases held : faceHolding s k with
  | none =>
    have none := List.findSome?_eq_none_iff.mp held ix (List.mem_finRange ix)
    simp only [itemAt, found, Option.map_eq_none_iff, List.findIdx?_eq_none_iff] at none
    exact absurd slot (by simpa using none f (List.mem_of_getElem? face))
  | some p =>
    obtain ⟨jx, m⟩ := p
    obtain ⟨q, g, recorded, placed, holds⟩ := faceHolding_holds held
    obtain ⟨rfl, rfl⟩ := only jx q m g recorded placed holds
    rfl

/-- The slots of the faces say which face holds a slot. -/
theorem faceHolding_congr {s t : State} {k : Slot}
    (same : ∀ ix : ItemIx, (t.stk.items[ix]).map (fun r => r.faces.map FaceRecord.slot) =
      (s.stk.items[ix]).map (fun r => r.faces.map FaceRecord.slot)) : faceHolding t k = faceHolding s k := by
  have place (r : ItemRecord) : r.faces.findIdx? (fun f => f.slot = some k) =
      (r.faces.map FaceRecord.slot).findIdx? (fun x => x = some k) := by
    rw [List.findIdx?_map]; rfl
  unfold faceHolding
  congr 1
  funext ix
  have here := same ix
  simp only [itemAt]
  cases was : s.stk.items[ix] <;> cases is : t.stk.items[ix] <;> simp only [was, is, Option.map_some, Option.map_none, reduceCtorEq,
    Option.some.injEq] at here ⊢
  rw [place, place, here]

/-- A face record changed but for its slot leaves the holder of each slot (R50). -/
theorem faceHolding_putItem {s t : State} {k : Slot} {ix : ItemIx} {n : Nat} {r : ItemRecord} {f g : FaceRecord}
    (found : s.stk.items[ix] = some r) (face : r.faces[n]? = some f) (slot : g.slot = f.slot)
    (items : t.stk.items = s.stk.items.set ix (some { r with faces := r.faces.set n g })) : faceHolding t k = faceHolding s k := by
  refine faceHolding_congr fun jx => ?_
  rw [items]
  by_cases same : jx = ix
  · subst same
    obtain ⟨here, rfl⟩ := List.getElem?_eq_some_iff.mp face
    rw [show (s.stk.items.set jx _)[jx] = _ from Vector.getElem_set_self _, found]
    simp only [Option.map_some, List.map_set, slot]
    rw [← List.getElem_map FaceRecord.slot (h := by simpa using here), List.set_getElem_self]
  · rw [show (s.stk.items.set ix _)[jx] = s.stk.items[jx] from Vector.getElem_set_ne _ _ fun e => same (Fin.ext e).symm]

/-! ## The taking -/

theorem takenWork_firstAttempt (ix : ItemIx) (n : Nat) (k : Slot) (r : ItemRecord) (f : FaceRecord) :
    takenWork ix n k f r.profile = firstAttempt ix n k r f := by
  simp only [takenWork, startAttempt, firstAttempt, attemptK, attemptL, attemptLimit, Nat.zero_mul, Nat.sub_zero, Nat.add_zero,
    Nat.zero_add, eq_comm (a := (1 : Nat)), Coder.fresh, Config.codedArea]

/-- The idle engine takes the face that alone holds the head of the ready queue (R51, R82). -/
theorem cnvTake_alone {s : State} {k : Slot} {waiting : List Slot} {ix : ItemIx} {n : Nat} {r : ItemRecord} {f : FaceRecord}
    (idle : s.cnv = none) (ready : s.fmc.ready = k :: waiting) (held : faceHolding s k = some (ix, n))
    (found : s.stk.items[ix] = some r) (face : r.faces[n]? = some f) :
    cnvTake none s = { s with
      stk := { s.stk with
        items := s.stk.items.set ix (some { r with faces := r.faces.set n { f with state := .converting } }) }
      fmc := { s.fmc with slots := s.fmc.slots.set k .converting, ready := waiting }
      cnv := some (firstAttempt ix n k r f) } := by
  rw [cnvTake_head idle ready held found face, takenWork_firstAttempt]
  rfl

theorem cnvTake_parity {s : State} (idle : s.cnv = none) (waiting : s.fmc.ready ≠ []) :
    cnvTake (some .converter) s = latch .tableParity s := by
  obtain ⟨k, rest, ready⟩ := List.exists_cons_of_ne_nil waiting
  simp only [cnvTake, idle, ready, if_true]

/-! ## The last row -/

/-- LAST_ROW_WRITE_COMPLETE at the end of a face's input: the row written, the face READY, then the engine's taking (R50, R51). -/
theorem exec_lastRow {s : State} {k : Slot} {c : ScaleCtx} {row : List Byte} {ix : ItemIx} {n : Nat} {r : ItemRecord} {f : FaceRecord}
    (bound : s.scu[k] = some c) (lastRow : c.lastRow = some row) (ended : c.inputEnded = true) (none : c.waiting = [])
    (filling : s.fmc.slots[k] = .filling) (held : faceHolding s k = some (ix, n)) (found : s.stk.items[ix] = some r)
    (face : r.faces[n]? = some f) :
    exec (.lastRowWriteComplete k .none) s = .next (cnvTake .none
      { s with
        stk := { s.stk with items := s.stk.items.set ix (some { r with
          faces := r.faces.set n { f with meanGrey := meanGreyOf c row, state := .ready } }) }
        scu := s.scu.set k .none
        fmc := { s.fmc with
          slots := s.fmc.slots.set k .ready, ready := s.fmc.ready ++ [k]
          mem := s.fmc.mem.write (greyBase k + (c.outHeight - 1) * Config.rowStride) row } }) := by
  let written : State := { s with fmc := { s.fmc with mem := s.fmc.mem.write (greyBase k + (c.outHeight - 1) * Config.rowStride) row } }
  have writes : writeGrey k (c.outHeight - 1) row s = written := if_pos filling
  have holds : faceHolding written k = some (ix, n) := held
  have makes : modFace ix n (fun f => { f with meanGrey := meanGreyOf c row, state := .ready }) written = _ :=
    modFace_eq _ (by exact found) face
  show execLastRowWriteComplete k .none s = _
  simp only [execLastRowWriteComplete, bound, lastRow, ended, none, filling, and_self, if_true, writes, holds, makes]
  rfl

/-- Settles O52: the row written, the face READY, and the engine's taking by what it stands at. -/
theorem lastRowMakesFaceReady : Obligations.LastRowMakesFaceReady := by
  refine ⟨?_, fun s => ⟨fun stays p => ?_, fun k waiting ix n r f idle ready alone => ?_, fun idle waiting part clear link => ?_⟩⟩
  · intro s k c row ix n r f bound lastRow ended none filling canonical held found face grey ready written
    have ends := exec_lastRow bound lastRow ended none filling held found face
    let m := s.fmc.mem.write (greyBase k + (c.outHeight - 1) * Config.rowStride) row
    change exec (.lastRowWriteComplete k .none) s = .next (cnvTake .none (written m)) at ends
    have wrote : Wrote s.fmc.mem m (greyBase k + (c.outHeight - 1) * 2560) row := wrote_write canonical _ _
    refine ⟨⟨_, ends, ?_, ?_⟩, fun busy => ⟨written m, ends.trans ?_, wrote, rfl⟩, fun idle empty slot => ⟨_, ends, ?_, ?_⟩⟩
    · rw [cnvTake_mem]; exact wrote
    · rw [cnvTake_mem]
    · rw [cnvTake_busy (by exact busy)]
    · rw [cnvTake_mem]; exact wrote
    · have holder : faceHolding (written m) k = some (ix, n) :=
        (faceHolding_putItem (t := written m) found face (g := ready) rfl rfl).trans held
      have queue : (written m).fmc.ready = [k] := by
        show s.fmc.ready ++ [k] = [k]
        rw [empty, List.nil_append]
      have placed : (r.faces.set n ready)[n]? = some ready := List.getElem?_set_self (List.getElem?_eq_some_iff.mp face).1
      simp only [cnvTake_mem]
      rw [cnvTake_alone (s := written m) (r := { r with faces := r.faces.set n ready }) idle queue holder (Vector.getElem_set_self _) placed]
      simp only [written, Vector.set_set, List.set_set]
      rfl
  · rcases stays with busy | empty
    · obtain ⟨w, engine⟩ := Option.ne_none_iff_exists'.mp busy
      simp only [cnvTake, engine]
    · cases engine : s.cnv <;> simp only [cnvTake, engine, empty]
  · exact cnvTake_alone idle ready (faceHolding_alone alone) alone.1 alone.2.1
  · rw [cnvTake_parity idle waiting]
    exact latch_latched clear (.inr part) link

end Sys2Proof.Proofs
end

section
/-! A grey row converted: its words read, the row coded, and what follows at the row boundary (R46, R47, R84 to R97, R112 to R128). -/

namespace Sys2Proof.Proofs
open Sys2Proof.Machine Sys2Proof.Safety Sys2Proof.Laws

/-! ## Reads that reach the limit -/

/-- Once a fault is latched a read counts, and latches no more (R47, R205). -/
theorem readWord_latched {s : State} (latched : s.flm.latch ≠ none) (w : Nat) (now : ReadResult) :
    (readWord w now s).1 = readFrom w [s.fmc.mem.readResult w now] s := by
  by_cases bad : s.fmc.mem.readResult w now = .uncorrectable
  · rw [readWord_uncorrectable bad (.inr latched), bad]
    simp [uncorrectableRead, readFrom, counted, noted, satInc_eq]
  · rw [readWord_counts w now s (.inl bad)]

theorem readFrom_nil (w : Nat) (s : State) : readFrom w [] s = s := by
  simp [readFrom, counted, noted]

/-- Reads that arrive after a latch count alone (R97). -/
theorem lateReads_counts {s : State} (latched : s.flm.latch ≠ none) (w : Nat) (reads : List ReadResult) :
    lateReads w reads s = readFrom w (wordsFound s.fmc.mem w reads.length reads) s := by
  induction reads generalizing w s with
  | nil => exact (readFrom_nil w s).symm
  | cons r rest ih =>
    have same : wordsFound (readFrom w [s.fmc.mem.readResult w r] s).fmc.mem (w + 1) rest.length rest =
        wordsFound s.fmc.mem (w + 1) rest.length rest := wordsFound_noteDamage _ _ _ _ _ _ (Nat.lt_succ_self w)
    rw [lateReads, readWord_latched latched, ih (by exact latched), same, List.length_cons, wordsFound_succ]
    exact (readFrom_cons _ _ _ _).symm

/-- A run of reads has brought the tally to its limit and put the part in BYPASS; all of it has counted (R47, R97). -/
structure LimitReached (found : List ReadResult) (s t : State) : Prop where
  flm : t.flm = { part := .bypass, latch := some .memoryLimit }
  work : NoWork t
  tally : t.fmc.tally = satAdd s.fmc.tally (found.count .uncorrectable)
  uncorrectable : t.fmc.uncorrectable = satAdd s.fmc.uncorrectable (found.count .uncorrectable)
  corrected : t.fmc.corrected = satAdd s.fmc.corrected (found.count .corrected)

theorem LimitReached_cons {r : ReadResult} {found : List ReadResult} {w : Nat} {s t : State}
    (h : LimitReached found (readFrom w [r] s) t) : LimitReached (r :: found) s t := by
  obtain ⟨flm, work, tally, uncorrectable, corrected⟩ := h
  refine ⟨flm, work, tally.trans ?_, uncorrectable.trans ?_, corrected.trans ?_⟩ <;>
    simp [readFrom, counted, satAdd_satAdd, List.count_cons, Nat.add_comm]

/-- The words after the one that brings the tally to its limit count as late reads (R97). -/
theorem LimitReached_late {found : List ReadResult} {w : Nat} {s t : State} (latched : Latched .memoryLimit s t) :
    LimitReached found s (readFrom w found t) := by
  refine ⟨latched.flm, NoWork_congr latched.work rfl rfl rfl rfl rfl rfl rfl rfl, ?_, ?_, ?_⟩ <;>
    · simp only [readFrom, counted]
      rw [latched.memory]

theorem readWords_latching {s : State} {w n : Nat} {now : ReadResult} {rest : List ReadResult}
    (latches : latchedSince s (readWord w now s).1 = true) :
    (readWords (n + 1) w (now :: rest) s).1 = lateReads (w + 1) (rest.take n) (readWord w now s).1 :=
  congrArg Prod.fst (if_pos latches)

theorem readWords_going {s : State} {w n : Nat} {now : ReadResult} {rest : List ReadResult}
    (goes : latchedSince s (readWord w now s).1 = false) :
    (readWords (n + 1) w (now :: rest) s).1 = (readWords n (w + 1) rest (readWord w now s).1).1 := by
  simp [readWords, goes]

/-- The sixteenth uncorrectable word of the tally lies among those read (R47). -/
theorem readWords_limit (n w : Nat) (reads : List ReadResult) {s : State} (below : s.fmc.tally.toNat < 16)
    (limit : 16 ≤ s.fmc.tally.toNat + (wordsFound s.fmc.mem w n reads).count .uncorrectable) (all : reads.length = n)
    (part : s.flm.part = .operating) (clear : s.flm.latch = none) (link : s.elu.link ≠ .between) :
    LimitReached (wordsFound s.fmc.mem w n reads) s (readWords n w reads s).1 := by
  induction n generalizing w reads s with
  | zero => simp only [wordsFound, List.range_zero, List.map_nil, List.count_nil] at limit; omega
  | succ n ih =>
    obtain ⟨now, rest, rfl⟩ := List.exists_cons_of_length_eq_add_one all
    have shorter : rest.length = n := Nat.succ.inj all
    rw [wordsFound_succ] at limit ⊢
    simp only [List.headD_cons, List.tail_cons] at limit ⊢
    have same (r : ReadResult) : wordsFound (readFrom w [r] s).fmc.mem (w + 1) n rest = wordsFound s.fmc.mem (w + 1) n rest :=
      wordsFound_noteDamage _ _ _ _ _ _ (Nat.lt_succ_self w)
    by_cases here : s.fmc.mem.readResult w now = .uncorrectable ∧ s.fmc.tally.toNat = 15
    · obtain ⟨bad, fifteen⟩ := here
      have latched : Latched .memoryLimit (readFrom w [.uncorrectable] s) (readWord w now s).1 := by
        have sixteenth := (readWord_sixteenth bad fifteen clear (.inr part) link).1
        rwa [show uncorrectableRead w s = readFrom w [.uncorrectable] s by
          simp [uncorrectableRead, readFrom, counted, noted, satInc_eq]] at sixteenth
      have memory : (readWord w now s).1.fmc.mem = (readFrom w [.uncorrectable] s).fmc.mem := by rw [latched.memory]
      rw [readWords_latching (latchedSince_iff.mpr ⟨by simp [latched.flm], clear⟩), List.take_of_length_le shorter.le,
        lateReads_counts (by simp [latched.flm]), bad, shorter, memory, same]
      exact LimitReached_cons (LimitReached_late latched)
    · have small : s.fmc.mem.readResult w now ≠ .uncorrectable ∨ s.fmc.tally.toNat + 1 < 16 := by
        by_cases bad : s.fmc.mem.readResult w now = .uncorrectable
        · have : s.fmc.tally.toNat ≠ 15 := fun fifteen => here ⟨bad, fifteen⟩
          omega
        · exact .inl bad
      have counts : (readWord w now s).1 = readFrom w [s.fmc.mem.readResult w now] s :=
        congrArg Prod.fst (readWord_counts w now s small)
      have tally : (readFrom w [s.fmc.mem.readResult w now] s).fmc.tally.toNat =
          min (s.fmc.tally.toNat + [s.fmc.mem.readResult w now].count .uncorrectable) 4294967295 := satAdd_toNat _ _
      rw [readWords_going (by rw [counts]; exact latchedSince_same rfl), counts]
      refine LimitReached_cons (w := w) ?_
      rw [← same (s.fmc.mem.readResult w now)]
      rw [List.count_cons] at limit
      rw [List.count_cons, List.count_nil] at tally
      refine ih (w + 1) rest ?_ ?_ shorter part clear link
      · rw [tally]
        rcases small with other | room
        · rw [if_neg (by simpa using other)]; omega
        · split_ifs <;> omega
      · rw [same, tally]
        omega

/-! ## The row as read -/

theorem noted_read (w : Nat) (found : List ReadResult) (m : FaceMemory) (a : Nat) : (noted w found m).read a = m.read a := by
  induction found generalizing w m with
  | nil => rfl
  | cons r rest ih => rw [noted, ih, read_noteDamage]

theorem noted_wf (w : Nat) (found : List ReadResult) {m : FaceMemory} (canonical : m.wf = true) : (noted w found m).wf = true := by
  induction found generalizing w m with
  | nil => exact canonical
  | cons r rest ih => exact ih _ (wf_noteDamage canonical w r)

/-- Bytes read, those of the uncorrectable words replaced, are what a reader takes (R46). -/
theorem substituteBad_taken {m m' : FaceMemory} (same : ∀ a, m'.read a = m.read a) (v : Byte) (base n : Nat) (found : List ReadResult) :
    substituteBad v (found.map (fun r => decide (r = .uncorrectable))) (m'.readBytes base n) = taken m base n v found := by
  refine List.ext_getElem (by simp [substituteBad, FaceMemory.readBytes, taken]) fun i hi hj => ?_
  simp only [substituteBad, FaceMemory.readBytes, taken, List.getElem_mapIdx, List.getElem_map, List.getElem_range, same,
    List.getD_eq_getElem?_getD, List.getElem?_map]
  cases found[i / 8]? <;> simp

theorem anyBad_iff (found : List ReadResult) :
    (found.map (fun r => decide (r = .uncorrectable))).any id = true ↔ 0 < found.count .uncorrectable := by
  simp [List.count_pos_iff]

/-- The part once the words of a grey row have been read: an uncorrectable one sets MEMORY_FAULT, unless the abandon mark is set
(R46, R85, R94). -/
def rowRead (w : Work) (base : Nat) (found : List ReadResult) (s : State) : State :=
  if 0 < found.count .uncorrectable ∧ w.abandonMark = false then
    modFace w.item w.face (fun f => { f with flags := f.flags ||| flagMemoryFault }) (readFrom (base / 8) found s)
  else readFrom (base / 8) found s

/-- The read changes the memory's counts, and the item table. -/
theorem rowRead_frame (w : Work) (base : Nat) (found : List ReadResult) (s : State) :
    ∃ items, rowRead w base found s = { readFrom (base / 8) found s with stk := { s.stk with items := items } } := by
  unfold rowRead
  split_ifs
  · exact ⟨_, rfl⟩
  · exact ⟨s.stk.items, rfl⟩

section
variable {s : State} {w : Work} (reads : List ReadResult) (engine : s.cnv = some w) (phase : w.phase = .rows ∨ w.phase = .boundary)
  (converting : s.fmc.slots[w.slot] = .converting) (height : w.nextRow < w.height)
include engine phase converting height

/-- CNV_GREY_ROW whose reads latch a fault (R47, R97). -/
theorem exec_cnvGreyRow_latched
    (latches : latchedSince s (readWords ((w.width + 7) / 8) ((greyBase w.slot + w.nextRow * 2560) / 8) reads s).1 = true) :
    exec (.cnvGreyRow reads none) s =
      .next (readWords ((w.width + 7) / 8) ((greyBase w.slot + w.nextRow * 2560) / 8) reads s).1 := by
  show execCnvGreyRow reads none s = _
  simp only [execCnvGreyRow, engine]
  rw [if_pos ⟨phase, converting, height⟩]
  exact congrArg Host.Outcome.next (if_pos latches)

/-- CNV_GREY_ROW whose reads latch none (R85). -/
theorem exec_cnvGreyRow_goes {u t : State} {bad : List Bool}
    (read : readWords ((w.width + 7) / 8) ((greyBase w.slot + w.nextRow * Config.rowStride) / 8) reads s = (u, bad))
    (goes : latchedSince s u = false)
    (marked : (if bad.any id = true ∧ ¬ w.abandonMark = true then
      modFace w.item w.face (fun f => f.setFlags flagMemoryFault) u else u) = t) :
    exec (.cnvGreyRow reads none) s = .next
      (convertRow w (substituteBad 255 bad (t.fmc.mem.readBytes (greyBase w.slot + w.nextRow * Config.rowStride) w.width)) none t) := by
  subst marked
  show execCnvGreyRow reads none s = _
  simp only [execCnvGreyRow, engine]
  rw [if_pos ⟨phase, converting, height⟩]
  simp only [read]
  rw [if_neg (Bool.eq_false_iff.mp goes)]

/-- The row is converted as it was read (R46, R85). -/
theorem exec_cnvGreyRow_reads :
    let base := greyBase w.slot + w.nextRow * 2560
    let found := wordsFound s.fmc.mem (base / 8) ((w.width + 7) / 8) reads
    (found.count .uncorrectable = 0 ∨ s.fmc.tally.toNat + found.count .uncorrectable < 16) →
    exec (.cnvGreyRow reads none) s =
      .next (convertRow w (taken s.fmc.mem base w.width 255 found) none (rowRead w base found s)) := by
  intro base found counts
  have marked : (if (found.map (fun r => decide (r = .uncorrectable))).any id = true ∧ ¬ w.abandonMark = true then
      modFace w.item w.face (fun f => f.setFlags flagMemoryFault) (readFrom (base / 8) found s)
      else readFrom (base / 8) found s) = rowRead w base found s := by
    unfold rowRead
    simp only [anyBad_iff, Bool.not_eq_true]
    rfl
  have same (a : Nat) : (rowRead w base found s).fmc.mem.read a = s.fmc.mem.read a := by
    obtain ⟨items, frame⟩ := rowRead_frame w base found s
    rw [frame]
    exact noted_read _ _ _ _
  rw [exec_cnvGreyRow_goes reads engine phase converting height (readWords_counts _ _ _ s counts) (latchedSince_same rfl) marked]
  exact congrArg (fun row => Host.Outcome.next (convertRow w row none (rowRead w base found s))) (substituteBad_taken same _ _ _ _)

end

/-! ## The row converted -/

/-- What the engine releases and codes of a row it has read (R86 to R90). -/
def rowReleases (entries : List CodeEntry) (w : Work) (row : List Byte) : Releases :=
  releaseRows entries w (releasedRows w.l w.height w.nextRow w.window
    (thresholdRow w.k w.params.tmin w.params.tmax w.background row))

/-- The engine's work state after a row (R87, R88, R90). -/
def rowDone (w : Work) (row : List Byte) (x : Releases) : Work :=
  { w with
    nextRow := w.nextRow + 1, background := nextBackgroundLine w.params.guardBand w.background row
    window := (thresholdRow w.k w.params.tmin w.params.tmax w.background row :: w.window).take 2, phase := .rows
    released := x.released, black := x.black, coder := x.run.coder }

section
variable {w : Work} {row : List Byte} {s t : State} {x : Releases} (codes : rowReleases (slotEntries s.dru w.params.codeSlot) w row = x)
  (writes : writeCoded w.slot w.coder.wordsWritten x.run.words.flatten s = t)
include codes writes

/-- The coder's words are written before anything follows at the row boundary (R113). -/
theorem convertRow_eq : convertRow w row none s =
    if x.run.stopped then if w.abandonMark then cnvStop none (rowDone w row x) t else attemptOver (rowDone w row x) none t
    else if w.nextRow + 1 = w.height then { t with cnv := some { rowDone w row x with phase := .lastWord } }
    else if w.abandonMark then cnvStop none (rowDone w row x) t
    else { t with cnv := some (rowDone w row x) } := by
  subst codes writes
  unfold convertRow
  simp only [reduceCtorEq, false_and, if_false, decide_eq_true_eq]
  rfl

theorem convertRow_goesOn (fits : x.run.stopped = false) (goes : w.abandonMark = false ∨ w.nextRow + 1 = w.height) :
    convertRow w row none s =
      { t with cnv := some { rowDone w row x with phase := if w.nextRow + 1 = w.height then .lastWord else .rows } } := by
  rw [convertRow_eq codes writes, if_neg (by simp [fits])]
  by_cases last : w.nextRow + 1 = w.height
  · rw [if_pos last, if_pos last]
  · rw [if_neg last, if_neg last, if_neg (by simp [goes.resolve_right last])]
    rfl

theorem convertRow_over (stopped : x.run.stopped = true) (unmarked : w.abandonMark = false) :
    convertRow w row none s = attemptOver (rowDone w row x) none t := by
  rw [convertRow_eq codes writes, if_pos stopped, if_neg (by simp [unmarked])]

theorem convertRow_stops (marked : w.abandonMark = true) (boundary : x.run.stopped = true ∨ ¬ w.nextRow + 1 = w.height) :
    convertRow w row none s = cnvStop none (rowDone w row x) t := by
  rw [convertRow_eq codes writes]
  by_cases stopped : x.run.stopped = true
  · rw [if_pos stopped, if_pos marked]
  · rw [if_neg stopped, if_neg (boundary.resolve_left stopped), if_pos marked]

end

/-! ## An attempt that ends OVER -/

/-- Below the last attempt the next one is set up (R92, R121). -/
theorem attemptOver_next {w : Work} {row : List Byte} {x : Releases} {s : State} (more : w.attempt + 1 < w.params.maxAttempts) :
    attemptOver (rowDone w row x) none s =
      { modFace w.item w.face (measured w x.black x.run.coder.bytes) s with cnv := some (nextAttempt w) } :=
  if_pos more

/-- The last attempt settles the face WITHHELD_OVER (R124). -/
theorem attemptOver_withholds {w : Work} {row : List Byte} {x : Releases} {s : State} {r : ItemRecord} {f : FaceRecord}
    (last : w.params.maxAttempts ≤ w.attempt + 1) (found : s.stk.items[w.item] = some r) (face : r.faces[w.face]? = some f) :
    attemptOver (rowDone w row x) none s = relTry none (cnvTake none (settledPart w r
      { measured w x.black x.run.coder.bytes f with state := .final, disposition := some .withheldOver, slot := none } false s)) :=
  (if_neg (Nat.not_lt.mpr last)).trans (settleFace_eq (w := rowDone w row x) false found face rfl)

/-! ## Face memory past the row boundary -/

theorem cnvStop_mem (w : Work) (s : State) : (cnvStop none w s).fmc.mem = s.fmc.mem := by
  rw [cnvStop, cnvTake_mem, tryFree_fmc]
  rfl

theorem settleFace_mem (w : Work) (kept : Bool) (g : FaceRecord → FaceRecord) (s : State) :
    (settleFace w kept g none s).fmc.mem = s.fmc.mem := by
  rw [settleFace, relTry_mem, cnvTake_mem, decideItem_fmc none (by decide)]
  cases kept <;> rfl

theorem attemptOver_mem (w : Work) (s : State) : (attemptOver w none s).fmc.mem = s.fmc.mem := by
  unfold attemptOver
  split_ifs
  · rfl
  · exact settleFace_mem ..

/-- After the coder's words nothing more is written at the row boundary. -/
theorem convertRow_mem {w : Work} {row : List Byte} {s t : State} {x : Releases}
    (codes : rowReleases (slotEntries s.dru w.params.codeSlot) w row = x)
    (writes : writeCoded w.slot w.coder.wordsWritten x.run.words.flatten s = t) :
    (convertRow w row none s).fmc.mem = t.fmc.mem := by
  rw [convertRow_eq codes writes]
  split_ifs
  · exact cnvStop_mem ..
  · exact attemptOver_mem ..
  · rfl
  · exact cnvStop_mem ..
  · rfl

/-- Settles O53: the reads that latch, the row boundary's cases, and the reads of an idle engine. -/
theorem greyRowConverted : Obligations.GreyRowConverted := by
  refine ⟨fun s w reads engine phase converting height canonical => ?_, fun s reads idle part => ?_⟩
  · intro base words found bad last
    refine ⟨fun limit below all part clear link => ?_, fun counts => ?_⟩
    · have reached := readWords_limit words (base / 8) reads below limit all part clear link
      exact ⟨_, exec_cnvGreyRow_latched reads engine phase converting height 
        (latchedSince_iff.mpr ⟨ne_of_eq_of_ne (congrArg Flm.latch reached.flm) (by simp), clear⟩),
        reached.flm, reached.work, reached.tally, reached.uncorrectable, reached.corrected⟩
    · intro row read pixels x bytes ended fits
      obtain ⟨items, frame⟩ := rowRead_frame w base found s
      change read = _ at frame
      have slots : read.fmc.slots[w.slot] = .converting := by rw [frame]; exact converting
      have sound : MemoryCanonical read := by rw [frame]; exact noted_wf _ _ canonical
      have dru : read.dru = s.dru := by rw [frame]; rfl
      obtain ⟨m, writes, wrote⟩ := writeCoded_wrote (w := w.coder.wordsWritten) (bytes := bytes) slots (.inr fits) sound
      have codes : rowReleases (slotEntries read.dru w.params.codeSlot) w row = x := by rw [dru]; rfl
      have kept : (convertRow w row none read).fmc.mem = m := convertRow_mem codes writes
      refine ⟨convertRow w row none read, exec_cnvGreyRow_reads reads engine phase converting height counts, kept ▸ wrote,
        fun goes unmarked => ?_, fun ended unmarked more => ?_, fun r found => ⟨fun f face ended unmarked final => ?_, fun marked boundary => ?_⟩⟩
      · rw [kept, convertRow_goesOn codes writes goes unmarked]
        rfl
      · rw [kept, convertRow_over codes writes ended unmarked, attemptOver_next more]
        rfl
      · rw [kept, convertRow_over codes writes ended unmarked, attemptOver_withholds (r := r) final (by exact found) face]
        rfl
      · rw [kept, convertRow_stops codes writes marked boundary, cnvStop_eq (r := r) (by exact found)]
        rfl
  · show execCnvGreyRow reads none s = _
    simp only [execCnvGreyRow, idle]
    rcases part with ⟨operating, below⟩ | ⟨bypass, latched⟩
    · rw [if_pos (.inl operating), countResults_count reads s (.inl below), idle]
    · rw [if_pos (.inr bypass), countResults_count reads s (.inr latched), idle]

end Sys2Proof.Proofs
end

section
/-! A release: what may be released, the choice, its records, and its segments (R151 to R160). -/

namespace Sys2Proof.Proofs
open Sys2Proof.Machine Sys2Proof.Safety Sys2Proof.Laws

/-! ## What may be released -/

/-- The item of an unreleased entry. -/
def unreleasedItem : QueueEntry → Option ItemIx
  | .item y false => some y
  | _ => none

/-- An entry that a release behind it may pass: its release has completed, or its item may still be overtaken (R151, R152). -/
def mayPass (s : State) (e : QueueEntry) : Prop :=
  (∃ y, e = .item y true) ∨ ∃ y p, e = .item y false ∧ s.stk.items[y] = some p ∧
    (p.state = .opened ∨ p.state = .closed) ∧ p.overtaken < p.profile.d

/-- The item `ix` is the first of the queue that is decided, all entries ahead of it may be passed, and `passed` are those that
its release overtakes, after the items `acc` (R151, R152). -/
def Chosen (s : State) (acc : List ItemIx) (q : List QueueEntry) (ix : ItemIx) (passed : List ItemIx) : Prop :=
  ∃ ahead behind r, q = ahead ++ .item ix false :: behind ∧ s.stk.items[ix] = some r ∧ r.state = .decided ∧
    passed = acc ++ ahead.filterMap unreleasedItem ∧ ∀ e ∈ ahead, mayPass s e

section
variable {s : State} {acc passed : List ItemIx} {ix : ItemIx}

theorem Chosen_cons {e : QueueEntry} {rest : List QueueEntry} : Chosen s acc (e :: rest) ix passed ↔
    (e = .item ix false ∧ passed = acc ∧ ∃ r, s.stk.items[ix] = some r ∧ r.state = .decided) ∨
      (mayPass s e ∧ Chosen s (acc ++ (unreleasedItem e).toList) rest ix passed) := by
  constructor
  · rintro ⟨ahead, behind, r, split, found, decided, rfl, passes⟩
    cases ahead with
    | nil =>
      obtain ⟨rfl, rfl⟩ := List.cons.inj split
      exact .inl ⟨rfl, List.append_nil _, r, found, decided⟩
    | cons first others =>
      obtain ⟨rfl, rfl⟩ := List.cons.inj split
      refine .inr ⟨passes e List.mem_cons_self, others, behind, r, rfl, found, decided, ?_, fun d h => passes d (List.mem_cons_of_mem _ h)⟩
      cases item : unreleasedItem e <;> simp [item]
  · rintro (⟨rfl, rfl, r, found, decided⟩ | ⟨passes, ahead, behind, r, rfl, found, decided, rfl, others⟩)
    · exact ⟨[], rest, r, rfl, found, decided, (List.append_nil _).symm, nofun⟩
    · refine ⟨e :: ahead, behind, r, rfl, found, decided, ?_, List.forall_mem_cons.mpr ⟨passes, others⟩⟩
      cases item : unreleasedItem e <;> simp [item]

theorem not_mayPass_fence (tag : Tag) : ¬ mayPass s (.fence tag) := by
  rintro (⟨y, h⟩ | ⟨y, p, h, -⟩) <;> cases h

theorem mayPass_unreleased {y : ItemIx} {p : ItemRecord} (found : s.stk.items[y] = some p) :
    mayPass s (.item y false) ↔ (p.state = .opened ∨ p.state = .closed) ∧ p.overtaken < p.profile.d := by
  constructor
  · rintro (⟨z, h⟩ | ⟨z, q, h, recorded, undecided⟩)
    · cases h
    · cases h
      obtain rfl := Option.some.inj (found.symm.trans recorded)
      exact undecided
  · exact fun undecided => .inr ⟨y, p, rfl, found, undecided⟩

/-- The sorting of a queue finds the item that may be released (R151, R152). -/
theorem releasableFrom_iff (acc : List ItemIx) (q : List QueueEntry) :
    releasableFrom s acc q = some (ix, passed) ↔ Chosen s acc q ix passed := by
  induction q generalizing acc with
  | nil => exact ⟨nofun, fun ⟨ahead, behind, r, split, _⟩ => by simp at split⟩
  | cons e rest ih =>
    rw [Chosen_cons]
    match e with
    | .fence tag => simp [releasableFrom, not_mayPass_fence]
    | .item y true =>
      have passes : mayPass s (.item y true) := .inl ⟨y, rfl⟩
      simp [releasableFrom, ih, passes, unreleasedItem]
    | .item y false =>
      cases found : s.stk.items[y] with
      | none =>
        simp only [releasableFrom, itemAt, found]
        refine ⟨nofun, ?_⟩
        rintro (⟨h, -, r, recorded, -⟩ | ⟨⟨z, h⟩ | ⟨z, p, h, recorded, -⟩, -⟩) <;> cases h
        · exact absurd (found.symm.trans recorded) nofun
        · exact absurd (found.symm.trans recorded) nofun
      | some p =>
        have decides : (QueueEntry.item y false = .item ix false ∧ passed = acc ∧ ∃ r, s.stk.items[ix] = some r ∧ r.state = .decided) ↔
            y = ix ∧ acc = passed ∧ p.state = .decided := by
          constructor
          · rintro ⟨h, rfl, r, recorded, decided⟩
            cases h
            obtain rfl := Option.some.inj (found.symm.trans recorded)
            exact ⟨rfl, rfl, decided⟩
          · rintro ⟨rfl, rfl, decided⟩
            exact ⟨rfl, rfl, p, found, decided⟩
        rw [decides, mayPass_unreleased found]
        cases state : p.state <;> simp [releasableFrom, itemAt, found, state, unreleasedItem, ← ih]

end

/-! ## The choice -/

theorem relTry_idle {s : State} (idle : s.rel.release = none) (operating : s.flm.part = .operating)
    {choice : Option (Stream × ItemIx × List ItemIx)} (chooses : chooseRelease s = choice) :
    relTry none s = (choice.elim s fun c => beginRelease c.1 c.2.1 c.2.2 s) := by
  subst chooses
  rw [relTry, if_pos ⟨operating, idle⟩, if_neg (by simp)]
  cases chooseRelease s <;> rfl

theorem chooseRelease_none {s : State} (none : ∀ st : Stream, releasableFrom s [] s.rel.queues[st] = none) :
    chooseRelease s = .none :=
  List.findSome?_eq_none_iff.mpr fun st _ => by simp only [none st, Option.map_none]

/-- The first stream after the arbiter position with a releasable item (R153). -/
theorem chooseRelease_first {s : State} {turn : Fin 16} {ix : ItemIx} {passed : List ItemIx}
    (chosen : releasableFrom s [] s.rel.queues[s.rel.position + 1 + turn] = some (ix, passed))
    (first : ∀ sooner < turn, releasableFrom s [] s.rel.queues[s.rel.position + 1 + sooner] = none) :
    chooseRelease s = some (s.rel.position + 1 + turn, ix, passed) := by
  have split : List.finRange 16 = (List.finRange 16).take turn ++ turn :: (List.finRange 16).drop (turn + 1) := by
    have here : (List.finRange 16)[turn.val]'(by simp) = turn := by simp
    conv_lhs => rw [← List.take_append_drop turn (List.finRange 16), List.drop_eq_getElem_cons (by simp), here]
  rw [chooseRelease, arbiterOrder, List.findSome?_map, List.findSome?_eq_some_iff]
  refine ⟨_, turn, _, split, ?_, fun sooner before => ?_⟩
  · simp only [Function.comp_apply, chosen, Option.map_some]
  · obtain ⟨i, small, rfl⟩ := List.mem_take_iff_getElem.mp before
    simp only [Function.comp_apply, List.getElem_finRange]
    rw [first _ (Fin.lt_def.mpr (lt_of_lt_of_le small (Nat.min_le_left ..)))]
    rfl

/-! ## The beginning of a release -/

/-- The part once these items have been overtaken (R154). -/
def overtaken (passed : List ItemIx) (s : State) : State := passed.foldl (fun s y => modItem y ItemRecord.overtake s) s

theorem modItem_items (ix y : ItemIx) (g : ItemRecord → ItemRecord) (s : State) :
    (modItem ix g s).stk.items[y] = if y = ix then (s.stk.items[y]).map g else s.stk.items[y] := by
  by_cases same : y = ix
  · subst same
    rw [if_pos rfl]
    exact Vector.getElem_set_self _
  · rw [if_neg same]
    exact Vector.getElem_set_ne ix.isLt y.isLt fun e => same (Fin.ext e).symm

theorem overtaken_frame (passed : List ItemIx) (s : State) :
    overtaken passed s = { s with stk := { s.stk with items := (overtaken passed s).stk.items } } := by
  induction passed generalizing s with
  | nil => rfl
  | cons y rest ih => exact ih (modItem y ItemRecord.overtake s)

theorem overtaken_items {passed : List ItemIx} (distinct : passed.Nodup) (s : State) (y : ItemIx) :
    (overtaken passed s).stk.items[y] = if y ∈ passed then (s.stk.items[y]).map ItemRecord.overtake else s.stk.items[y] := by
  induction passed generalizing s with
  | nil => rfl
  | cons z rest ih =>
    obtain ⟨new, others⟩ := List.nodup_cons.mp distinct
    rw [show overtaken (z :: rest) s = overtaken rest (modItem z ItemRecord.overtake s) from rfl, ih others, modItem_items]
    by_cases same : y = z
    · subst same
      simp [new]
    · simp [same]

/-- The record of the item whose release begins, having overtaken these (R153, R154). -/
def releasingRecord (passed : List ItemIx) (r : ItemRecord) : ItemRecord :=
  { r with state := .releasing, flags := r.flags ||| (if passed = [] then 0 else 0x20) }

/-- The item table at the beginning of a release (R153, R154). -/
def releaseMarked (ix : ItemIx) (passed : List ItemIx) (r : ItemRecord) (s : State) : State :=
  putItem ix (releasingRecord passed r) (overtaken passed s)

theorem releasePlan_ne_nil (r : ItemRecord) (markers : List ItemIx) : releasePlan r markers ≠ [] := by
  simp [releasePlan]

/-- A release begins with the first record of its plan offered (R153 to R155). -/
theorem beginRelease_eq {st : Stream} {ix : ItemIx} {passed : List ItemIx} {s : State} {r : ItemRecord}
    (found : s.stk.items[ix] = some r) (distinct : (ix :: passed).Nodup) {c : ReleaseRec} {rest : List ReleaseRec}
    (plan : releasePlan r (owedMarkers s passed) = c :: rest) :
    beginRelease st ix passed s =
      { releaseMarked ix passed r s with rel := { s.rel with
          position := st
          release := some { item := ix, current := c, offered := composeRecord (releaseMarked ix passed r s) ix c, rest := rest } } } := by
  obtain ⟨apart, others⟩ := List.nodup_cons.mp distinct
  have kept : (overtaken passed s).stk.items[ix] = some r := by rw [overtaken_items others, if_neg apart, found]
  have marks : modItem ix (fun r => { (r.setFlags (itemFlagIf (!passed.isEmpty) itemOutOfOrder)) with state := .releasing })
      (overtaken passed s) = releaseMarked ix passed r s := by
    rw [modItem_eq _ kept, releaseMarked, releasingRecord]
    cases passed <;> rfl
  have now : itemAt (releaseMarked ix passed r s) ix = some (releasingRecord passed r) := putItem_items _ _ _
  have same : releasePlan (releasingRecord passed r) (owedMarkers s passed) = c :: rest := plan
  have rel : (releaseMarked ix passed r s).rel = s.rel := by
    rw [releaseMarked, overtaken_frame]
    rfl
  rw [beginRelease]
  simp only
  rw [show passed.foldl (fun s y => modItem y ItemRecord.overtake s) s = overtaken passed s from rfl, marks]
  simp only [now, same, rel]

theorem releaseMarked_self (ix : ItemIx) (passed : List ItemIx) (r : ItemRecord) (s : State) :
    (releaseMarked ix passed r s).stk.items[ix] = some (releasingRecord passed r) := putItem_items _ _ _

theorem releaseMarked_other {ix y : ItemIx} {passed : List ItemIx} (distinct : (ix :: passed).Nodup) (r : ItemRecord) (s : State)
    (other : y ≠ ix) : (releaseMarked ix passed r s).stk.items[y] =
      if y ∈ passed then (s.stk.items[y]).map ItemRecord.overtake else s.stk.items[y] := by
  rw [← overtaken_items (List.nodup_cons.mp distinct).2]
  exact Vector.getElem_set_ne ix.isLt y.isLt fun e => other (Fin.ext e).symm

theorem releaseMarked_frame (ix : ItemIx) (passed : List ItemIx) (r : ItemRecord) (s : State) :
    releaseMarked ix passed r s = { s with stk := { s.stk with items := (releaseMarked ix passed r s).stk.items } } := by
  unfold releaseMarked
  rw [overtaken_frame]
  rfl

/-- The records of a release are composed as the item table stands. -/
theorem composeRecord_congr {s t : State} (items : t.stk.items = s.stk.items) (ix : ItemIx) (c : ReleaseRec) :
    composeRecord t ix c = composeRecord s ix c := by
  cases c <;> simp only [composeRecord, itemAt, faceAt, items]

theorem segmentCount_eq (coded : Nat) : segmentCount coded = (coded + 16375) / 16376 := by
  rw [segmentCount, Config.segmentBytes, Nat.add_sub_assoc (by decide)]

/-- The records of a release in order (R155). -/
theorem releasePlan_eq (s : State) (r : ItemRecord) (passed : List ItemIx) :
    releasePlan r (owedMarkers s passed) =
      (passed.filter (fun y => (s.stk.items[y]).any (fun p => !p.pendingSent))).map .marker ++
        (if r.outcome = some .cancelled ∨ r.outcome = some .stalled then []
         else (r.faces.mapIdx (fun n f =>
           if f.disposition = some .coded ∨ f.disposition = some .codedOver then
             .head n :: (List.range ((f.codedBytes + 16375) / 16376)).map (.segment n) else [])).flatten) ++ [.result] := by
  have owed : owedMarkers s passed = passed.filter (fun y => (s.stk.items[y]).any (fun p => !p.pendingSent)) := by
    unfold owedMarkers
    congr 1
    funext y
    simp only [itemAt]
    cases s.stk.items[y] <;> rfl
  have records : faceRecords = fun n f => if f.disposition = some .coded ∨ f.disposition = some .codedOver then
      .head n :: (List.range ((f.codedBytes + 16375) / 16376)).map (.segment n) else [] := by
    funext n f
    simp only [faceRecords, isKept, Bool.or_eq_true, decide_eq_true_eq, segmentCount_eq]
  rw [releasePlan, owed, records]

/-! ## A segment -/

theorem putItem_same {s : State} {ix : ItemIx} {r : ItemRecord} (found : s.stk.items[ix] = some r) : putItem ix r s = s := by
  rw [putItem, ← found]
  simp only [Fin.getElem_fin, Vector.set_getElem_self]

section
variable {s u t : State} {x : Release} {n i : Nat} {r : ItemRecord} {f : FaceRecord} {k : Slot} {reads : List ReadResult}
  {bad : List Bool}

/-- CODED_SEGMENT_COMPOSED with a segment to compose, its reads latching none (R46, R159). -/
theorem exec_codedSegmentComposed (busy : s.rel.release = some x) (current : x.current = .segment n i) (waiting : x.offered = none)
    (found : s.stk.items[x.item] = some r) (face : r.faces[n]? = some f) (slot : f.slot = some k) (coded : s.fmc.slots[k] = .coded)
    (read : readWords ((segmentLength f.codedBytes i + 7) / 8) ((codedBase k + Config.segmentBytes * i) / 8) reads s = (u, bad))
    (goes : latchedSince s u = false)
    (marked : (if bad.any id = true then modFace x.item n (fun f => f.setFlags flagMemoryFault) u else u) = t) :
    exec (.codedSegmentComposed reads none) s = .next { t with rel := { t.rel with release := some { x with
      offered := some (segmentRecord r f i (substituteBad 0 bad
        (u.fmc.mem.readBytes (codedBase k + Config.segmentBytes * i) (segmentLength f.codedBytes i)))) } } } := by
  subst marked
  show execCodedSegmentComposed reads none s = _
  simp only [execCodedSegmentComposed, busy, current, waiting, itemAt, found, face, slot]
  rw [if_neg (not_not.mpr coded), if_neg nofun]
  simp only [read]
  rw [if_neg (Bool.eq_false_iff.mp goes)]

end

theorem segmentRecord_eq (r : ItemRecord) (f : FaceRecord) (i : Nat) (data : List Byte) :
    segmentRecord r f i data = madeRecord 0x21 (byteOf r.stream.val) 0 (toBE 4 r.seq.toNat ++
      [sideByte f.side, if i + 1 = (f.codedBytes + 16375) / 16376 then 1 else 0, byteOf i, 0] ++ data) := by
  simp only [segmentRecord, segmentCount_eq, byteOfBool, decide_eq_true_eq]

/-- The face record once these words of a segment of it have been read (R46). -/
def segmentFace (found : List ReadResult) (f : FaceRecord) : FaceRecord :=
  if 0 < found.count .uncorrectable then { f with flags := f.flags ||| flagMemoryFault } else f

/-- A face is marked where a word of its segment was uncorrectable (R46). -/
theorem segment_marked {u : State} {ix : ItemIx} {r : ItemRecord} {n : Nat} {f : FaceRecord} (recorded : u.stk.items[ix] = some r)
    (face : r.faces[n]? = some f) (found : List ReadResult) :
    (if (found.map (fun r => decide (r = .uncorrectable))).any id = true then modFace ix n (fun f => f.setFlags flagMemoryFault) u
      else u) =
      putItem ix { r with faces := r.faces.set n (segmentFace found f) } u := by
  unfold segmentFace
  by_cases bad : 0 < found.count .uncorrectable
  · rw [if_pos ((anyBad_iff found).mpr bad), if_pos bad]
    exact modFace_eq _ recorded face
  · obtain ⟨here, rfl⟩ := List.getElem?_eq_some_iff.mp face
    rw [if_neg (mt (anyBad_iff found).mp bad), if_neg bad, List.set_getElem_self]
    exact (putItem_same recorded).symm

/-- A segment carries the bytes read (R159). -/
theorem codedSegment_composed {s : State} {x : Release} {n i : Nat} {r : ItemRecord} {f : FaceRecord} {k : Slot} {reads : List ReadResult}
    (busy : s.rel.release = some x) (current : x.current = .segment n i) (waiting : x.offered = none)
    (recorded : s.stk.items[x.item] = some r) (face : r.faces[n]? = some f) (slot : f.slot = some k) (coded : s.fmc.slots[k] = .coded) :
    let len := min 16376 (f.codedBytes - 16376 * i)
    let base := codedBase k + 16376 * i
    let found := wordsFound s.fmc.mem (base / 8) ((len + 7) / 8) reads
    (found.count .uncorrectable = 0 ∨ s.fmc.tally.toNat + found.count .uncorrectable < 16) →
    exec (.codedSegmentComposed reads none) s = .next
      { putItem x.item { r with faces := r.faces.set n (segmentFace found f) } (readFrom (base / 8) found s) with
        rel := { s.rel with release := some { x with
          offered := some (segmentRecord r f i (taken s.fmc.mem base len 0 found)) } } } := by
  intro len base found counts
  have same (a : Nat) : (readFrom (base / 8) found s).fmc.mem.read a = s.fmc.mem.read a := noted_read _ _ _ _
  rw [exec_codedSegmentComposed busy current waiting recorded face slot coded (readWords_counts _ _ _ s counts)
    (latchedSince_same rfl) (segment_marked (by exact recorded) face found), ← substituteBad_taken same]
  rfl

/-- Settles O56: a segment, what may be released, the choice, and the records. -/
theorem segmentComposed : Obligations.SegmentComposed := by
  refine ⟨?_, fun s q ix passed => releasableFrom_iff [] q, fun s => ⟨fun stays => ?_, ?_⟩, ?_⟩
  · intro s x n i r f k reads busy current waiting recorded face slot coded left len base found bad counts data last payload segment marked
    rw [codedSegment_composed busy current waiting recorded face slot coded counts, segmentRecord_eq]
    rfl
  · by_cases chooses : s.rel.release = none ∧ s.flm.part = .operating
    · obtain ⟨idle, operating⟩ := chooses
      have none := (stays.resolve_left (not_not.mpr idle)).resolve_left (not_not.mpr operating)
      rw [relTry_idle idle operating (chooseRelease_none none)]
      rfl
    · exact if_neg fun h => chooses ⟨h.2, h.1⟩
  · intro idle operating turn ix passed r chosen first found distinct
    obtain ⟨c, rest, plan⟩ := List.exists_cons_of_ne_nil (releasePlan_ne_nil r (owedMarkers s passed))
    have begins := (relTry_idle idle operating (chooseRelease_first chosen first)).trans (beginRelease_eq found distinct plan)
    refine ⟨_, { item := ix, current := c, offered := composeRecord (releaseMarked ix passed r s) ix c, rest := rest }, begins, ?_,
      releaseMarked_self ix passed r s, fun y mem p recorded => ?_, fun y other apart => ?_, rfl, ?_, ?_⟩
    · rw [releaseMarked_frame]
    · have other : y ≠ ix := fun e => (List.nodup_cons.mp distinct).1 (e ▸ mem)
      refine (releaseMarked_other distinct r s other).trans ?_
      rw [if_pos mem, recorded]
      rfl
    · refine (releaseMarked_other distinct r s other).trans ?_
      rw [if_neg apart]
    · exact (composeRecord_congr rfl ix c).symm
    · exact plan.symm.trans (releasePlan_eq s r passed)
  · intro s ix r found made entry final
    refine ⟨fun x => ?_, ?_, fun n f face => ?_⟩
    · simp only [composeRecord, itemAt, found]
      rfl
    · simp only [composeRecord, itemAt, found]
      rfl
    · simp only [composeRecord, itemAt, found, faceAt, face]
      rfl

end Sys2Proof.Proofs
end

section
/-! The egress link: record boundaries, the requesters in turn, and the completion of a release (R15 to R18, R148 to R150, R161, R206). -/

namespace Sys2Proof.Proofs
open Sys2Proof.Machine Sys2Proof.Safety Sys2Proof.Laws

/-! ## Record boundaries -/

section
variable {s : State} {src : Source} {sent : List Byte}

theorem exec_egressRecordEnd (sending : s.elu.link = .sending src sent) (p : Option ParityRead) :
    exec (.egressRecordEnd p) s = .next (egressBoundary p (endRecord src s)) := by
  show execEgressRecordEnd p s = _
  rw [execEgressRecordEnd, sending]

theorem egressBoundary_bypass (bypass : s.flm.part = .bypass) (p : Option ParityRead) : egressBoundary p s = bypassBoundary s := by
  rw [egressBoundary, bypass]

theorem egressBoundary_held (part : s.flm.part = .starting ∨ s.flm.part = .operating) (hold : s.elu.holdInput = true)
    (p : Option ParityRead) : egressBoundary p s = startFill s := by
  rcases part with part | part <;> rw [egressBoundary, part] <;> exact if_pos hold

end

section
variable {s : State} (part : s.flm.part = .starting ∨ s.flm.part = .operating) (hold : s.elu.holdInput = false) (p : Option ParityRead)
include part hold

theorem egressBoundary_none (turn : (requesterOrder s.elu.position).find? (hasReady s) = none) : egressBoundary p s = startFill s := by
  rcases part with part | part <;> simp only [egressBoundary, part, hold, Bool.false_eq_true, if_false, turn]

theorem egressBoundary_pass (turn : (requesterOrder s.elu.position).find? (hasReady s) = some .passThrough) :
    egressBoundary p s = grantPass s := by
  rcases part with part | part <;> simp only [egressBoundary, part, hold, Bool.false_eq_true, if_false, turn]

theorem egressBoundary_notice (turn : (requesterOrder s.elu.position).find? (hasReady s) = some .notices) :
    egressBoundary p s = grantNotice s := by
  rcases part with part | part <;> simp only [egressBoundary, part, hold, Bool.false_eq_true, if_false, turn]

theorem egressBoundary_release (turn : (requesterOrder s.elu.position).find? (hasReady s) = some .release) :
    egressBoundary p s = grantRelease p s := by
  rcases part with part | part <;> simp only [egressBoundary, part, hold, Bool.false_eq_true, if_false, turn]

end

/-! ## The requester whose turn it is -/

section
variable {s : State}

theorem hasReady_pass : hasReady s .passThrough = !s.elu.fifo.isEmpty := rfl

theorem hasReady_notices : hasReady s .notices = !s.dru.notices.isEmpty := rfl

theorem hasReady_release : hasReady s .release = (s.rel.release.bind Release.offered).isSome := by
  rw [hasReady]
  cases s.rel.release <;> rfl

theorem turn_none (pass : s.elu.fifo = []) (notices : s.dru.notices = []) (release : s.rel.release.bind Release.offered = none) :
    (requesterOrder s.elu.position).find? (hasReady s) = none := by
  cases s.elu.position <;> simp [requesterOrder, hasReady_pass, hasReady_notices, hasReady_release, pass, notices, release]

theorem turn_notices (notices : s.dru.notices ≠ []) (turn : s.elu.position = .passThrough ∨
    (s.elu.position = .release ∧ s.elu.fifo = []) ∨
      (s.elu.position = .notices ∧ s.rel.release.bind Release.offered = none ∧ s.elu.fifo = [])) :
    (requesterOrder s.elu.position).find? (hasReady s) = some .notices := by
  rcases turn with position | ⟨position, pass⟩ | ⟨position, release, pass⟩ <;>
    simp [requesterOrder, hasReady_pass, hasReady_notices, hasReady_release, *]

theorem turn_pass (pass : s.elu.fifo ≠ []) (turn : s.elu.position = .release ∨
    (s.elu.position = .notices ∧ s.rel.release.bind Release.offered = none) ∨
      (s.elu.position = .passThrough ∧ s.dru.notices = [] ∧ s.rel.release.bind Release.offered = none)) :
    (requesterOrder s.elu.position).find? (hasReady s) = some .passThrough := by
  rcases turn with position | ⟨position, release⟩ | ⟨position, notices, release⟩ <;>
    simp [requesterOrder, hasReady_pass, hasReady_notices, hasReady_release, *]

theorem turn_release (release : s.rel.release.bind Release.offered ≠ none) (turn : s.elu.position = .notices ∨
    (s.elu.position = .passThrough ∧ s.dru.notices = []) ∨
      (s.elu.position = .release ∧ s.elu.fifo = [] ∧ s.dru.notices = [])) :
    (requesterOrder s.elu.position).find? (hasReady s) = some .release := by
  have ready : hasReady s .release = true := by rw [hasReady_release]; exact Option.isSome_iff_ne_none.mpr release
  rcases turn with position | ⟨position, notices⟩ | ⟨position, pass, notices⟩ <;>
    simp [requesterOrder, hasReady_pass, hasReady_notices, *]

end

/-! ## What a grant does -/

theorem grantRelease_eq {s : State} {x : Release} {r : Record} (busy : s.rel.release = some x) (offered : x.offered = some r)
    (p : Option ParityRead) : grantRelease p s =
      let t : State := { s with elu := { s.elu with position := .release, link := .sending .release (recordBytes r) } }
      if x.current = .result then completeRelease p x.item t else offerNext p x t := by
  simp only [grantRelease, busy, offered]

theorem offerNext_eq {x : Release} {c : ReleaseRec} {rest : List ReleaseRec} (plan : x.rest = c :: rest) (s : State) :
    offerNext none x s = { s with rel := { s.rel with
      release := some { item := x.item, current := c, offered := composeRecord s x.item c, rest := rest } } } := by
  simp only [offerNext, plan, reduceCtorEq, if_false]

theorem offerNext_latches {x : Release} (more : x.rest ≠ []) (s : State) :
    offerNext (some .release) x s = latch .tableParity s := by
  obtain ⟨c, rest, plan⟩ := List.exists_cons_of_ne_nil more
  simp only [offerNext, plan, if_true]

theorem completeRelease_latches {ix : ItemIx} {s : State} (recorded : s.stk.items[ix] ≠ none) :
    completeRelease (some .release) ix s = latch .tableParity s := by
  obtain ⟨r, found⟩ := Option.ne_none_iff_exists'.mp recorded
  simp only [completeRelease, itemAt, found, if_true]

theorem grantPass_eq {s : State} {p : PassEntry} {ps : List PassEntry} (fifo : s.elu.fifo = p :: ps) :
    grantPass s = { s with elu := { s.elu with position := .passThrough, link := .sending .passThrough (passBytes s p) } } := by
  simp only [grantPass, fifo]

theorem grantNotice_eq {s : State} {n : Notice} {ns : List Notice} (notices : s.dru.notices = n :: ns) :
    grantNotice s = { s with
      dru := { s.dru with notices := ns }
      elu := { s.elu with position := .notices, link := .sending .notices (recordBytes (noticeRecord s.sus.working.station n)) } } := by
  simp only [grantNotice, notices]

theorem bypassBoundary_idle {s : State} (quiet : s.elu.holdInput = true ∨ (s.dru.notices = [] ∧ s.elu.fifo = [])) :
    bypassBoundary s = s := by
  unfold bypassBoundary
  split_ifs with hold
  · rfl
  · obtain ⟨notices, fifo⟩ := quiet.resolve_left hold
    simp only [notices, grantPass, fifo]

theorem bypassBoundary_notice {s : State} {n : Notice} {ns : List Notice} (hold : s.elu.holdInput = false)
    (notices : s.dru.notices = n :: ns) : bypassBoundary s = { s with
      dru := { s.dru with notices := ns }
      elu := { s.elu with link := .sending .notices (recordBytes (noticeRecord s.sus.working.station n)) } } := by
  simp only [bypassBoundary, hold, Bool.false_eq_true, if_false, notices]

theorem bypassBoundary_pass {s : State} {p : PassEntry} {ps : List PassEntry} (hold : s.elu.holdInput = false)
    (notices : s.dru.notices = []) (fifo : s.elu.fifo = p :: ps) : bypassBoundary s =
      { s with elu := { s.elu with position := .passThrough, link := .sending .passThrough (passBytes s p) } } := by
  simp only [bypassBoundary, hold, Bool.false_eq_true, if_false, notices, grantPass_eq fifo]

/-! ## The completion of a release -/

/-- The slots that the completion of a release hands over to be wiped (R53). -/
def codedSlots (s : State) (r : ItemRecord) : List Slot := r.faces.filterMap (fun f => f.slot.filter (fun k => s.fmc.slots[k] = .coded))

/-- The item record without its CODED slots (R53). -/
def withoutCoded (s : State) (r : ItemRecord) : ItemRecord :=
  { r with faces := r.faces.map (fun f => { f with slot := f.slot.filter (fun k => s.fmc.slots[k] ≠ .coded) }) }

theorem toScrub_each (ks : List Slot) (s : State) : ks.foldl (fun s k => toScrub k s) s =
    { s with fmc := { s.fmc with slots := scrubbed ks s.fmc.slots, scrubOrder := s.fmc.scrubOrder ++ ks } } := by
  induction ks using List.reverseRecOn with
  | nil =>
    have same : scrubbed [] s.fmc.slots = s.fmc.slots := by ext i hi; simp [scrubbed]
    simp [same]
  | append_singleton ks k ih =>
    rw [List.foldl_append, ih, scrubbed_append]
    simp only [List.foldl_cons, List.foldl_nil, toScrub, List.append_assoc]

/-- A face loses its slot just where that is CODED (R53). -/
theorem face_withoutCoded (s : State) (f : FaceRecord) :
    (if (f.slot.filter (fun k => s.fmc.slots[k] = .coded)).isSome then { f with slot := none } else f) =
      { f with slot := f.slot.filter (fun k => s.fmc.slots[k] ≠ .coded) } := by
  cases gives : f.slot.filter (fun k => s.fmc.slots[k] = .coded) with
  | some k =>
    obtain ⟨slot, coded⟩ := Option.filter_eq_some_iff.mp gives
    have bare : f.slot.filter (fun k => s.fmc.slots[k] ≠ .coded) = none :=
      Option.filter_eq_none_iff.mpr fun j mem => by
        obtain rfl := Option.some.inj (slot.symm.trans mem)
        simpa using coded
    rw [bare]
    rfl
  | none =>
    have kept : f.slot.filter (fun k => s.fmc.slots[k] ≠ .coded) = f.slot := by
      cases slot : f.slot with
      | none => rfl
      | some k => exact if_pos (by simpa using Option.filter_eq_none_iff.mp gives k slot)
    rw [kept]
    rfl

theorem scrubCodedSlots_eq {ix : ItemIx} {s : State} {r : ItemRecord} (found : s.stk.items[ix] = some r) :
    scrubCodedSlots ix s = { putItem ix (withoutCoded s r) s with fmc := { s.fmc with
      slots := scrubbed (codedSlots s r) s.fmc.slots, scrubOrder := s.fmc.scrubOrder ++ codedSlots s r } } := by
  simp only [scrubCodedSlots, itemAt, found]
  rw [toScrub_each, modItem_eq (r := r) _ (by exact found)]
  simp only [face_withoutCoded]
  rfl

theorem withoutCoded_freed (s : State) (r : ItemRecord) :
    (∀ f ∈ (withoutCoded s r).faces, f.slot = none) ↔ ∀ f ∈ r.faces, ∀ k, f.slot = some k → s.fmc.slots[k] = .coded := by
  simp [withoutCoded, Option.filter_eq_none_iff]

/-- The part once the fence markers of a stream with no unreleased entry ahead of them have passed (R150). -/
def fencesGone (st : Stream) (s : State) : State :=
  { s with
    rel := { s.rel with queues := s.rel.queues.set st (fencesPassed s.rel.queues[st]).1 }
    dru := noticedAll ((fencesPassed s.rel.queues[st]).2.map (fun t => eventNotice .fencePassed .done t [byteOf st.val])) s.dru }

theorem passFences_eq (st : Stream) {s : State} (part : s.flm.part ≠ .bypass) : passFences st s = fencesGone st s := by
  unfold passFences
  rw [passableFences_eq_fencesPassed]
  exact pushNotices_eq _ part

/-- A queue whose entry of this item is marked released (R161). -/
def markReleased (ix : ItemIx) (q : List QueueEntry) : List QueueEntry :=
  q.map (fun e => if e = .item ix false then .item ix true else e)

theorem mem_markReleased {ix : ItemIx} {q : List QueueEntry} (mem : QueueEntry.item ix false ∈ q) :
    QueueEntry.item ix true ∈ markReleased ix q := List.mem_map.mpr ⟨_, mem, if_pos rfl⟩

/-- The part once the release of an item has completed: its CODED slots wait to be wiped, and its record, its stream's queue and the
Directive Unit are as given (R53, R161). -/
def releaseDone (ix : ItemIx) (r : ItemRecord) (s : State) (queue : List QueueEntry) (entry : Option ItemRecord) (d : Dru) : State :=
  { s with
    stk := { s.stk with items := s.stk.items.set ix entry }
    fmc := { s.fmc with
      slots := scrubbed (codedSlots s r) s.fmc.slots, scrubOrder := s.fmc.scrubOrder ++ codedSlots s r }
    rel := { s.rel with release := none, queues := s.rel.queues.set r.stream queue }
    dru := d }

/-- The FENCE PASSED notices of a queue (R150). -/
def fenceNotices (st : Stream) (queue : List QueueEntry) : List Notice :=
  (fencesPassed queue).2.map (fun t => eventNotice .fencePassed .done t [byteOf st.val])

/-- The Directive Unit once the item at `ix` is gone: in QUIESCING the last one grants every owed tag (R185). -/
def quiescedWithout (ix : ItemIx) (s : State) : Dru :=
  if s.dru.quiesce = .quiescing ∧ ∀ j : ItemIx, j ≠ ix → s.stk.items[j] = none then
    noticedAll (grantNotices .done s.dru.owed) { s.dru with quiesce := .quiesced, owed := [] }
  else s.dru

section
variable {ix : ItemIx} {r : ItemRecord} {s : State}

theorem passFences_releaseDone (part : s.flm.part ≠ .bypass) (queue : List QueueEntry) (entry : Option ItemRecord) (d : Dru) :
    passFences r.stream (releaseDone ix r s queue entry d) =
      releaseDone ix r s (fencesPassed queue).1 entry (noticedAll (fenceNotices r.stream queue) d) := by
  have here : (releaseDone ix r s queue entry d).rel.queues[r.stream] = queue := Vector.getElem_set_self _
  rw [passFences_eq _ (by exact part), fencesGone, here]
  simp only [releaseDone, Vector.set_set]
  rfl

theorem completeRelease_stages (found : s.stk.items[ix] = some r) : completeRelease none ix s =
    relTry none (passFences r.stream (tryFree ix
      (releaseDone ix r s (markReleased ix s.rel.queues[r.stream]) (some (withoutCoded s r)) s.dru))) := by
  simp only [completeRelease, itemAt, found, reduceCtorEq, if_false]
  rw [scrubCodedSlots_eq (r := r) (by exact found)]
  rfl

/-- With a face still holding a slot the record stays (R26, R161). -/
theorem completeRelease_kept (part : s.flm.part ≠ .bypass) (found : s.stk.items[ix] = some r)
    (kept : ¬ ∀ f ∈ r.faces, ∀ k, f.slot = some k → s.fmc.slots[k] = .coded) : completeRelease none ix s =
      relTry none (releaseDone ix r s (fencesPassed (markReleased ix s.rel.queues[r.stream])).1 (some (withoutCoded s r))
        (noticedAll (fenceNotices r.stream (markReleased ix s.rel.queues[r.stream])) s.dru)) := by
  rw [completeRelease_stages found, tryFree_eq (r := withoutCoded s r) (by exact Vector.getElem_set_self _),
    if_neg fun h => kept ((withoutCoded_freed s r).mp h.2), passFences_releaseDone part]

/-- With no face holding a slot record and queue entry leave, and an empty table is granted (R26, R148, R161, R185). -/
theorem completeRelease_freed (part : s.flm.part ≠ .bypass) (found : s.stk.items[ix] = some r)
    (mem : QueueEntry.item ix false ∈ s.rel.queues[r.stream])
    (freed : ∀ f ∈ r.faces, ∀ k, f.slot = some k → s.fmc.slots[k] = .coded) :
    let queue := (markReleased ix s.rel.queues[r.stream]).filter (fun e => decide (e ≠ .item ix true))
    completeRelease none ix s = relTry none (releaseDone ix r s (fencesPassed queue).1 none
      (noticedAll (fenceNotices r.stream queue) (quiescedWithout ix s))) := by
  intro queue
  let done := releaseDone ix r s (markReleased ix s.rel.queues[r.stream]) (some (withoutCoded s r)) s.dru
  have spent : done.rel.queues[r.stream] = markReleased ix s.rel.queues[r.stream] := Vector.getElem_set_self _
  have frees : tryFree ix done = releaseDone ix r s queue none (quiescedWithout ix s) := by
    rw [tryFree_eq (s := done) (r := withoutCoded s r) (by exact Vector.getElem_set_self _),
      if_pos ⟨by exact spent ▸ mem_markReleased mem, (withoutCoded_freed s r).mpr freed⟩,
      show done.rel.queues[(withoutCoded s r).stream] = markReleased ix s.rel.queues[r.stream] from spent, checkQuiesced_eq]
    have emptied : (∀ j : ItemIx, (done.stk.items.set ix none)[j] = none) ↔ ∀ j : ItemIx, j ≠ ix → s.stk.items[j] = none := by
      rw [show done.stk.items.set ix none = s.stk.items.set ix none from Vector.set_set ..]
      exact emptied_iff _ _
    simp only [emptied]
    rw [if_neg (c := done.flm.part = .bypass) part]
    simp only [done, releaseDone, show (withoutCoded s r).stream = r.stream from rfl, Vector.set_set]
    rfl
  rw [completeRelease_stages found, ← passFences_releaseDone part]
  exact congrArg (fun t => relTry none (passFences r.stream t)) frees

end

end Sys2Proof.Proofs
end

section
/-! The egress serves its requesters in turn (R15 to R18, R148 to R161, R206). -/

namespace Sys2Proof.Proofs
open Sys2Proof.Machine Sys2Proof.Safety Sys2Proof.Laws

/-- The part with the record that the Release Engine offered being sent (R15). -/
def releaseSent (src : Source) (record : Record) (s : State) : State :=
  { endRecord src s with elu := { (endRecord src s).elu with position := .release, link := .sending .release (recordBytes record) } }

/-- The Release Engine is next in the cycle, and no requester before it has a record ready (R15). -/
def isReleaseTurn (s : State) : Prop :=
  s.elu.position = .notices ∨ (s.elu.position = .passThrough ∧ s.dru.notices = []) ∨
    (s.elu.position = .release ∧ s.elu.fifo = [] ∧ s.dru.notices = [])

/-- The grant of a release at the end of a record (R15, R155, R161). -/
theorem exec_egressRecordEnd_release {s : State} {src : Source} {sent : List Byte} {x : Release} {record : Record}
    (sending : s.elu.link = .sending src sent) (part : s.flm.part = .starting ∨ s.flm.part = .operating)
    (hold : s.elu.holdInput = false) (turn : isReleaseTurn (endRecord src s)) (busy : s.rel.release = some x)
    (offered : x.offered = some record) (p : Option ParityRead) :
    (x.current = .result → exec (.egressRecordEnd p) s = .next (completeRelease p x.item (releaseSent src record s))) ∧
      (x.current ≠ .result → exec (.egressRecordEnd p) s = .next (offerNext p x (releaseSent src record s))) := by
  have ready : (endRecord src s).rel.release.bind Release.offered ≠ none := by
    show s.rel.release.bind Release.offered ≠ none
    rw [busy, Option.bind_some, offered]
    nofun
  have grants : exec (.egressRecordEnd p) s = .next (grantRelease p (endRecord src s)) :=
    (exec_egressRecordEnd sending p).trans (congrArg Host.Outcome.next (egressBoundary_release (s := endRecord src s) part hold p (turn_release (s := endRecord src s) ready turn)))
  rw [grants, grantRelease_eq (s := endRecord src s) busy offered]
  exact ⟨fun result => congrArg Host.Outcome.next (if_pos result), fun more => congrArg Host.Outcome.next (if_neg more)⟩

/-- The notices that the completion of a release makes: the grants, then the fences passed (R150, R185). -/
theorem completion_notices (granted : Prop) [Decidable granted] (grants fences : List Notice) (quiesced d : Dru) :
    noticedAll fences (if granted then noticedAll grants quiesced else d) =
      noticedAll ((if granted then grants else []) ++ fences) (if granted then quiesced else d) := by
  by_cases yes : granted
  · simp only [yes, if_true, noticedAll, List.foldl_append]
  · simp only [yes, if_false, List.nil_append]

/-- A queue once its fence markers have passed holds what it held but those markers (R150). -/
theorem fencesPassed_queue (q : List QueueEntry) :
    (fencesPassed q).1 = (q.takeWhile (fun e => match e with
        | .item _ false => false
        | _ => true)).filter (fun e => match e with
          | .item _ _ => true
          | .fence _ => false) ++ q.dropWhile (fun e => match e with
        | .item _ false => false
        | _ => true) := by
  have kept : (fun e : QueueEntry => (match e with
      | .fence tag => some tag
      | .item _ _ => none : Option Tag).isNone) = fun e => match e with
        | .item _ _ => true
        | .fence _ => false := by
    funext e
    cases e <;> rfl
  rw [← kept]
  rfl

/-- The completion of a release, by whether a face still holds a slot (R26, R148, R150, R161, R185). -/
theorem completeRelease_eq {ix : ItemIx} {r : ItemRecord} {s : State} (part : s.flm.part ≠ .bypass) (found : s.stk.items[ix] = some r)
    (mem : QueueEntry.item ix false ∈ s.rel.queues[r.stream]) :
    let freed := ∀ f ∈ r.faces, ∀ k, f.slot = some k → s.fmc.slots[k] = .coded
    let released := markReleased ix s.rel.queues[r.stream]
    let queue := if freed then released.filter (fun e => decide (e ≠ .item ix true)) else released
    let granted := s.dru.quiesce = .quiescing ∧ freed ∧ ∀ j : ItemIx, j ≠ ix → s.stk.items[j] = none
    completeRelease none ix s = relTry none (releaseDone ix r s (fencesPassed queue).1 (if freed then none else some (withoutCoded s r))
      (noticedAll ((if granted then grantNotices .done s.dru.owed else []) ++ fenceNotices r.stream queue)
        (if granted then { s.dru with quiesce := .quiesced, owed := [] } else s.dru))) := by
  intro freed released queue granted
  by_cases gone : freed
  · have here : queue = released.filter (fun e => decide (e ≠ .item ix true)) := if_pos gone
    have empties : (s.dru.quiesce = .quiescing ∧ ∀ j : ItemIx, j ≠ ix → s.stk.items[j] = none) ↔ granted :=
      ⟨fun ⟨quiescing, empty⟩ => ⟨quiescing, gone, empty⟩, fun ⟨quiescing, _, empty⟩ => ⟨quiescing, empty⟩⟩
    rw [completeRelease_freed part found mem gone, ← here, if_pos gone, quiescedWithout, completion_notices]
    by_cases last : granted
    · rw [if_pos (empties.mpr last), if_pos (empties.mpr last), if_pos last, if_pos last]
    · rw [if_neg (mt empties.mp last), if_neg (mt empties.mp last), if_neg last, if_neg last]
  · have here : queue = released := if_neg gone
    have more : ¬ granted := fun h => gone h.2.1
    rw [completeRelease_kept part found gone, here, if_neg gone, if_neg more, if_neg more]
    rfl

/-- Settles O57: the requester whose turn it is, and what its grant does. -/
theorem egressServesInTurn : Obligations.EgressServesInTurn := by
  refine ⟨fun s => rfl, fun s apart => congrArg Host.Outcome.next (if_neg apart), ?_, fun s bypass between => ?_⟩
  · intro s src sent sending fifo offered fill filled releaseTurn
    have ends := exec_egressRecordEnd sending
    refine ⟨fun bypass => ?_, fun part => ⟨?_, ?_, ?_, ?_, ?_, ?_⟩⟩
    · refine ⟨fun quiet => ?_, fun hold n ns notices => ?_, fun hold notices p ps pass => ?_⟩
      · rw [ends, egressBoundary_bypass (by exact bypass), bypassBoundary_idle (by exact quiet)]
        rfl
      · rw [ends, egressBoundary_bypass (by exact bypass), bypassBoundary_notice (by exact hold) (by exact notices)]
        rfl
      · rw [ends, egressBoundary_bypass (by exact bypass), bypassBoundary_pass (by exact hold) (by exact notices) (by exact pass)]
        rfl
    · intro quiet
      rw [ends]
      by_cases hold : s.elu.holdInput = true
      · rw [egressBoundary_held (by exact part) (by exact hold)]
        rfl
      · obtain ⟨pass, notices, none⟩ := quiet.resolve_left hold
        rw [egressBoundary_none (by exact part) (by exact Bool.eq_false_iff.mpr hold) _ (turn_none (by exact pass) (by exact notices) (by exact none))]
        rfl
    · intro hold n ns notices turn
      have some : (endRecord src s).dru.notices ≠ [] := by
        show s.dru.notices ≠ []
        rw [notices]
        nofun
      rw [ends, egressBoundary_notice (by exact part) (by exact hold) _ (turn_notices some (by exact turn)), grantNotice_eq (by exact notices)]
      rfl
    · intro hold p ps pass turn
      have some : (endRecord src s).elu.fifo ≠ [] := by
        show fifo ≠ []
        rw [pass]
        nofun
      rw [ends, egressBoundary_pass (by exact part) (by exact hold) _ (turn_pass some (by exact turn)), grantPass_eq (by exact pass)]
      rfl
    · intro hold x r c rest busy ready more plan turn next
      rw [(exec_egressRecordEnd_release sending part hold turn busy ready _).2 more, offerNext_eq plan]
      rfl
    · intro hold turn x result r busy ready final found mem coded freed left queue queue' isSpent near passed granted event
      rw [(exec_egressRecordEnd_release sending part hold turn busy ready _).1 final]
      have working : (releaseSent src result s).flm.part ≠ .bypass := by
        show s.flm.part ≠ .bypass
        rcases part with part | part <;> rw [part] <;> nofun
      rw [completeRelease_eq working found mem, fencesPassed_queue]
      rfl
    · intro operating clear hold turn x record busy ready reads
      have latched : Latched .tableParity (releaseSent src record s) (latch .tableParity (releaseSent src record s)) :=
        latch_latched (s := releaseSent src record s) clear (.inr operating) nofun
      have grant := exec_egressRecordEnd_release sending part hold turn busy ready (some .release)
      rcases reads with ⟨result, recorded⟩ | ⟨more, others⟩
      · exact ⟨_, (grant.1 result).trans (congrArg Host.Outcome.next (completeRelease_latches (by exact recorded))), latched⟩
      · exact ⟨_, (grant.2 more).trans (congrArg Host.Outcome.next (offerNext_latches others _)), latched⟩
  · have opens : exec .egressHoldRelease s = .next (bypassBoundary { s with elu := { s.elu with holdInput := false } }) :=
      congrArg Host.Outcome.next ((if_pos between).trans (egressBoundary_bypass (by exact bypass) none))
    refine ⟨fun n ns notices => ?_, fun notices p ps pass => ?_, fun notices pass => ?_⟩
    · rw [opens, bypassBoundary_notice rfl (by exact notices)]
    · rw [opens, bypassBoundary_pass rfl (by exact notices) (by exact pass)]
      rfl
    · rw [opens, bypassBoundary_idle (.inr ⟨by exact notices, by exact pass⟩)]

end Sys2Proof.Proofs
end
